-- ==== Sys2Proof/Word.lean ====
section
/-!
DEFINITION. The words of the block (spec/00_scope.md R6, R11; spec/30_encoding.md R61, R63, R64, R66).
-/
namespace Sys2Proof

/-- The `rgb` operand, `0xRRGGBB` (R63). -/
abbrev Rgb := BitVec 24

/-- A pixel-buffer entry, `{cg, cr, cb}` or zero (R64). -/
abbrev Entry := BitVec 24

/-- One colour channel, before or after correction (R6 `CHAN_BITS`). -/
abbrev Channel := BitVec 8

/-- An index of the colour-correction table, `0 .. 127` (R82). -/
abbrev TableIndex := BitVec 7

/-- A command word (R61). -/
abbrev CmdWord := BitVec 90

/-- An integer operand or construction port as it stands on the wires, read as signed (R12, R65). -/
abbrev IntWord := BitVec 32

/-- The colour-correction table: total on `0 .. 127` (R82). -/
abbrev CctTable := Vector Channel 128

/-- One bus word with its width: "one fixed-width word" of `WORD_BITS` bits (R66). -/
structure BusWord where
  width : Nat
  bits  : BitVec width
  deriving DecidableEq, Repr

/-- The two timing profiles of the Bus Transmitter (R14, R23). -/
inductive Profile where
  | data
  | reset
  deriving DecidableEq, Repr

/-- `DATA = 0`, `RESET = 1` (R23, R66, `92_eei_decisions.md` D10). -/
def Profile.code : Profile → BitVec 1
  | .data  => 0
  | .reset => 1

/-- A token: a profile and a bus word (R66). -/
structure Token where
  profile : Profile
  word    : BusWord
  deriving DecidableEq, Repr

end Sys2Proof
end

