-- ==== Sys2Proof/Config.lean ====
section
/-!
DEFINITION. What is fixed for an instance: the constants of spec/00_scope.md R6, the parameters of R7, the construction ports
(spec/30_encoding.md R73), and the parameter values no file of the spec gives, as uninterpreted constants (log 2, 3, 6).
-/
namespace Sys2Proof

/-- `DIM`, the dimming factor (R6). -/
def Config.dim : Nat := 2

/-- `CCT_RANGE_EXPECTED` (R6). -/
def Config.cctRangeExpected : IntWord := 0x100

/-- `MIN_DIM`: width and height are clamped to at least this (R6). -/
def Config.minDim : Int := 1

/-- `PIXEL_BITS` and `WORDS_PER_PIXEL` (R6). -/
def Config.wordsPerPixel : Nat := 24

/-- `RESET_WORDS_PER_FRAME` (R6). -/
def Config.resetWordsPerFrame : Nat := 2

/-- The bound on the geometry (R7, `92_eei_decisions.md` D4). -/
def Config.geometryBound : Nat := 2 ^ 31 - 1

/-- The parameters of the output encoding: `WORD_BITS`, `PAT1`, `PAT0` (R7, R109). -/
structure BusParams where
  wordBits : Nat
  pat1     : BitVec wordBits
  pat0     : BitVec wordBits
  deriving DecidableEq, Repr

/-- `PAT1` as a bus word. -/
def BusParams.word1 (b : BusParams) : BusWord := ⟨b.wordBits, b.pat1⟩

/-- `PAT0` as a bus word. -/
def BusParams.word0 (b : BusParams) : BusWord := ⟨b.wordBits, b.pat0⟩

/-- `RESET_WORD`: all `WORD_BITS` bits zero (R6). -/
def BusParams.resetWord (b : BusParams) : BusWord := ⟨b.wordBits, 0⟩

/-- The parameters of one instance that no step writes (R7). `CFG_WIDTH`, `CFG_HEIGHT`, `CFG_ALT`, `CFG_PIN` and `CCT_RANGE`
are ports sampled at construction: see `Straps`. -/
structure Params where
  bus         : BusParams
  cct         : CctTable
  busBitOrder : Nat
  busCpol     : Nat
  dataHz      : Nat
  resetHz     : Nat
  eoqInit     : Bool
  contInit    : Bool
  deriving DecidableEq, Repr

/-- The ports a construction samples (R73, R140). `CFG_PIN` is an opaque handle, a plain number here. -/
structure Straps where
  cfgWidth  : IntWord
  cfgHeight : IntWord
  cfgAlt    : Bool
  cfgPin    : Nat
  cctRange  : IntWord
  deriving DecidableEq, Repr

/-- The spec's own illustration `REFCFG` (R7): not a claim about any instance. -/
def BusParams.refcfg : BusParams := { wordBits := 8, pat1 := 0xF8, pat0 := 0xC0 }

/-! ### Values the spec leaves open, for `State.reset` (log 2, 6) -/

/-- `WORD_BITS` less 2: the constraint `WORD_BITS >= 2` (R7) holds whatever it is. -/
opaque Config.wordBitsAboveTwo : Nat

/-- `WORD_BITS` of the instance at reset. -/
def Config.wordBits : Nat := 2 + Config.wordBitsAboveTwo

/-- `PAT0` of the instance at reset. -/
opaque Config.pat0 : BitVec Config.wordBits

/-- A wish for `PAT1`; every legal value is one. -/
opaque Config.pat1Wish : BitVec Config.wordBits

/-- `PAT1` of the instance at reset: the wish, unless that would break `PAT1 != PAT0` (R7, R109). -/
def Config.pat1 : BitVec Config.wordBits :=
  if Config.pat1Wish = Config.pat0 then ~~~Config.pat0 else Config.pat1Wish

/-- The entries of `CCT` of the instance at reset (R82: nothing else is assumed of them). -/
opaque Config.cctEntry : Fin 128 → Channel

/-- `BUS_BIT_ORDER` of the instance at reset. -/
opaque Config.busBitOrder : Nat

/-- `BUS_CPOL` of the instance at reset. -/
opaque Config.busCpol : Nat

/-- `DATA_HZ` of the instance at reset. -/
opaque Config.dataHz : Nat

/-- `RESET_HZ` of the instance at reset. -/
opaque Config.resetHz : Nat

/-- `EOQ_INIT` of the instance at reset (R23, R33). -/
opaque Config.eoqInit : Bool

/-- `CONT_INIT` of the instance at reset (R23, R33). -/
opaque Config.contInit : Bool

/-- `CFG_PIN` at reset: passed through, never interpreted (R7). -/
opaque Config.cfgPin : Nat

/-- The parameters of the instance at reset. -/
def Config.params : Params :=
  { bus := { wordBits := Config.wordBits, pat1 := Config.pat1, pat0 := Config.pat0 }
    cct := Vector.ofFn Config.cctEntry
    busBitOrder := Config.busBitOrder
    busCpol := Config.busCpol
    dataHz := Config.dataHz
    resetHz := Config.resetHz
    eoqInit := Config.eoqInit
    contInit := Config.contInit }

/-- The construction ports at reset: the defaults `DEF_WIDTH`, `DEF_HEIGHT`, `DEF_ALT` of R6, and a Color Corrector that declares
the expected range (R145). DESIGN CHOICE, log 3. -/
def Config.defaultStraps : Straps :=
  { cfgWidth := 1, cfgHeight := 1, cfgAlt := false, cfgPin := Config.cfgPin, cctRange := 0x100 }

end Sys2Proof
end

