-- ==== Sys2Proof/Syntax.lean ====
section
/-!
DEFINITION. The instructions: one constructor for each row of spec/opcode_table.json.
-/
namespace Sys2Proof

/-- The four commands of spec/30_encoding.md R62 and the micro-operations behind the three token rows.
Integer operands are the numbers their signed 32-bit fields stand for (R12, R65): DESIGN CHOICE, log 15. -/
inductive Instr where
  /-- `clear()` (R90). -/
  | clear
  /-- `set(index, rgb)` (R92). -/
  | set (index : Int) (rgb : Rgb)
  /-- `set(x, y, rgb)` (R94). -/
  | setxy (x y : Int) (rgb : Rgb)
  /-- `send()` (R100). -/
  | send
  /-- Row `TOKEN.RST`, emitted by TXRESET (R103). The host cannot issue it. -/
  | tokenRst
  /-- Row `TOKEN.T0`, emitted by TXBIT(0) (R106). The host cannot issue it. -/
  | tokenT0
  /-- Row `TOKEN.T1`, emitted by TXBIT(1) (R106). The host cannot issue it. -/
  | tokenT1
  deriving DecidableEq, Repr

/-- The rows the host can issue: format `C` of R61. -/
def Instr.isCommand : Instr → Bool
  | .clear | .set _ _ | .setxy _ _ _ | .send => true
  | .tokenRst | .tokenT0 | .tokenT1 => false

end Sys2Proof
end

