-- ==== Sys2Proof/WellFormed.lean ====
section
/-!
DEFINITION. The checks on syntax and parameters (spec/00_scope.md R7, R12).
-/
namespace Sys2Proof

/-- A number that a signed field of `INT_BITS = 32` bits can hold (R12). -/
def fitsInt (v : Int) : Bool := decide (-2 ^ 31 ≤ v) && decide (v < 2 ^ 31)

/-- An instruction that has an encoding: its integer operands fit their fields (R61, R65). -/
def Instr.wellFormed : Instr → Bool
  | .clear        => true
  | .set index _  => fitsInt index
  | .setxy x y _  => fitsInt x && fitsInt y
  | .send         => true
  | .tokenRst     => true
  | .tokenT0      => true
  | .tokenT1      => true

/-- `WORD_BITS >= 2` and `PAT1 != PAT0` (R7, R109). -/
def BusParams.wellFormed (b : BusParams) : Bool := decide (2 ≤ b.wordBits) && decide (b.pat1 ≠ b.pat0)

/-- A geometry the spec gives a meaning: each dimension at least 1 and the bound of R7 (R21). -/
def geometryOk (w h : Nat) : Bool :=
  decide (1 ≤ w) && decide (1 ≤ h) && decide ((w + 1) * (h + 1) ≤ Config.geometryBound)

/-- The pattern of the waveform condition of R109 in shift order: `h` ones, then zeros. -/
def isRunOfOnes (bits : List Bool) (h : Nat) : Bool :=
  bits == List.replicate h true ++ List.replicate (bits.length - h) false

/-- The second condition of R109 for given shift orders of the two patterns; no rule of the spec depends on it. -/
def waveformOk (shifted1 shifted0 : List Bool) (h1 h0 : Nat) : Bool :=
  isRunOfOnes shifted1 h1 && isRunOfOnes shifted0 h0 && shifted1.length == shifted0.length &&
    decide (1 ≤ h0) && decide (h0 < h1) && decide (h1 ≤ shifted1.length - 1)

end Sys2Proof
end

