-- ==== Sys2Proof/Decode.lean ====
section
/-!
DEFINITION. Decoder and encoder of the command word (spec/30_encoding.md R61, R62, R65, R70) and of the tokens (R66), and the
table-numbered decoder the host asks for.
-/
namespace Sys2Proof

/-! ### Fields of the command word (R61) -/

/-- `op`, bits 89:88. -/
def opField (w : CmdWord) : BitVec 2 := w.extractLsb' 88 2

/-- `a`, bits 87:56. -/
def aField (w : CmdWord) : IntWord := w.extractLsb' 56 32

/-- `b`, bits 55:24. -/
def bField (w : CmdWord) : IntWord := w.extractLsb' 24 32

/-- `rgb`, bits 23:0. -/
def rgbField (w : CmdWord) : Rgb := w.extractLsb' 0 24

/-- The command word of the four fields. -/
def packCommand (op : BitVec 2) (a b : IntWord) (rgb : Rgb) : CmdWord := op ++ a ++ b ++ rgb

/-- Every command word is a command (R62, R70); unused fields are ignored (R61). -/
def decodeCommand (w : CmdWord) : Instr :=
  match (opField w).toNat with
  | 0 => .clear
  | 1 => .set (aField w).toInt (rgbField w)
  | 2 => .setxy (aField w).toInt (bField w).toInt (rgbField w)
  | _ => .send

/-! ### Both formats of the table -/

/-- What stands for an instruction: a command word (format `C`) or a token (format `T`). -/
inductive Encoded where
  | command (w : CmdWord)
  | token (t : Token)
  deriving DecidableEq, Repr

/-- Why a word is refused: only a token can be. -/
inductive DecodeError where
  /-- The token is none of `RST`, `T0`, `T1` (R66: "Only three tokens ever occur"). -/
  | notAToken (t : Token)
  deriving DecidableEq, Repr

/-- `RST` (R66). -/
def tokenRstOf (b : BusParams) : Token := ⟨.reset, b.resetWord⟩

/-- `T0` (R66). -/
def tokenT0Of (b : BusParams) : Token := ⟨.data, b.word0⟩

/-- `T1` (R66). -/
def tokenT1Of (b : BusParams) : Token := ⟨.data, b.word1⟩

/-- The token rows, read back. -/
def decodeToken (b : BusParams) (t : Token) : Except DecodeError Instr :=
  if t = tokenRstOf b then .ok .tokenRst
  else if t = tokenT0Of b then .ok .tokenT0
  else if t = tokenT1Of b then .ok .tokenT1
  else .error (.notAToken t)

/-- The decoder, total. -/
def decode (b : BusParams) : Encoded → Except DecodeError Instr
  | .command w => .ok (decodeCommand w)
  | .token t   => decodeToken b t

/-! ### The encoder (R61, R62; unused fields zero, R72) -/

/-- The encoding of an instruction. -/
def encode (b : BusParams) : Instr → Encoded
  | .clear         => .command (packCommand 0 0 0 0)
  | .set index rgb => .command (packCommand 1 (BitVec.ofInt 32 index) 0 rgb)
  | .setxy x y rgb => .command (packCommand 2 (BitVec.ofInt 32 x) (BitVec.ofInt 32 y) rgb)
  | .send          => .command (packCommand 3 0 0 0)
  | .tokenRst      => .token (tokenRstOf b)
  | .tokenT0       => .token (tokenT0Of b)
  | .tokenT1       => .token (tokenT1Of b)

/-! ### The host's numbering of the table -/

/-- The table shows the token rows with `WORD_BITS = 8`: bit 8 the profile, bits 7:0 the word. -/
def tableToken (w : Nat) : Token :=
  ⟨if w / 256 = 0 then .data else .reset, ⟨8, BitVec.ofNat 8 w⟩⟩

/-- What the decoder reads from a row's word. A command row has 90 bits, in whole bytes 96. The token rows have `1 + WORD_BITS`
bits, which the table prints for `WORD_BITS = 8`; they are read with the spec's illustration `REFCFG` (log 16). -/
def decodeTableWord (nbits w : Nat) : Option Instr :=
  if 16 < nbits then
    if w < 2 ^ 90 then some (decodeCommand (BitVec.ofNat 90 w)) else none
  else if w < 2 ^ 9 then
    match decodeToken BusParams.refcfg (tableToken w) with
    | .ok i    => some i
    | .error _ => none
  else none

end Sys2Proof
end

