-- ==== Sys2Proof/Machine/State.lean ====
section
/-!
DEFINITION. The state of the machine (spec/10_state.md R20 to R33), the reasons a step can stop, and the state after reset.
-/
namespace Sys2Proof.Machine

/-- `GEOM` (R21). -/
structure Geom where
  w   : Nat
  h   : Nat
  alt : Bool
  deriving DecidableEq, Repr

/-- `N = W * H`, a name and not stored state (R21). -/
def Geom.n (g : Geom) : Nat := g.w * g.h

/-- `BCS` (R23). -/
structure Bcs where
  ctas : Profile
  cont : Bool
  eoq  : Bool
  deriving DecidableEq, Repr

/-- `SEQ.PHASE` (R25). -/
inductive Phase where
  | idle
  | preSel
  | preTx
  | dataTx
  | postSel
  | postTx
  deriving DecidableEq, Repr

/-- `SEQ` (R25). `BIT` counts `0 .. 23`; `PIX` is below `N` in every state a run reaches. -/
structure Seq where
  phase : Phase
  pix   : Nat
  bit   : Fin 24
  deriving DecidableEq, Repr

/-- `ST` (R26). -/
inductive Status where
  | run
  | halt
  deriving DecidableEq, Repr

/-- `FAULT`, the model's fault record (R26, R124). -/
inductive FaultRecord where
  | none
  | cfgMismatch
  | oobWrite (slot : Nat) (value : Entry)
  deriving DecidableEq, Repr

/-- What `TXLOG` holds: tokens, and the events R32 lets a model log beside them (R101, R146). -/
inductive Event where
  | token (t : Token)
  | irqMask (on : Bool)
  | configure (pin wordBits bitOrder cpol : Nat)
  | setClockRate (hz : Nat) (p : Profile)
  deriving DecidableEq, Repr

/-- One step's mover and what it does (spec/00_scope.md R8, R9; log 1, 13, 19). -/
inductive Move where
  /-- The block has the turn (R60, R100). -/
  | block
  /-- The Bus Transmitter sets `TX_READY` (R105). -/
  | transmitterReady
  /-- The host presents a command word: `CMD_VALID = 1`, `CMD = w` (R60). -/
  | present (w : CmdWord)
  /-- The host presents no command any more: `CMD_VALID = 0` (R60: it "may hold" a command, and need not). -/
  | withdraw
  /-- `RST`: a new construction with these ports (R140). -/
  | construct (p : Straps)
  deriving DecidableEq, Repr

/-- The pixel buffer: the entries that are not zero, by rising slot number (log 12). A slot not listed holds 0, the value after
construction and CLEAR (R22, R142). -/
abbrev Memory := List (Nat × Entry)

/-- The machine: the block's own state (R20), the fault record and the output sequence (R26, R32), the flag of the Bus
Transmitter (R27), the command port (R60), the moves to come, and the instance's fixed parameters (R7). -/
structure State where
  geom     : Geom
  pb       : Memory
  bcs      : Bcs
  irqMask  : Bool
  seq      : Seq
  st       : Status
  fault    : FaultRecord
  txReady  : Bool
  txlog    : List Event
  pastLogs : List (List Event)
  port     : Option CmdWord
  moves    : List Move
  params   : Params
  deriving DecidableEq, Repr

/-- Why a step stops with a fault. -/
inductive Fault where
  /-- Raised by `step` on every move but a construction once `OobWrite` stands in `FAULT` (R13, R122, R123: "no meaning to any
  later step"). Safe: hardware may go on there, under an `OOB_POLICY` the spec claims nothing of. -/
  | oobWrite (slot : Nat) (value : Entry)
  /-- Raised by `step` in `DATA_TX` when `SEQ.PIX` names a slot that does not exist (R13: a read is "defined only for
  `0 <= a < N`"). No run reaches it. Safe. -/
  | readOutsideBuffer (slot : Nat)
  deriving DecidableEq, Repr

/-- Why a step is refused. -/
inductive Refusal where
  /-- An instruction whose meaning is not written yet; no arm raises it. Safe. -/
  | notModelled (mnemonic : String)
  /-- Raised by a construction whose geometry breaks the bound of R7 (R141: "gives no meaning to an instance that breaks it";
  `93_implementation_defined.md` U11: refuse). Safe. -/
  | geometryOutOfBound
  deriving DecidableEq, Repr

/-- The state right after the construction of the default instance (R33, R140). `PIX`, `BIT`, `TX_READY`: log 4, 5. -/
def State.reset : State :=
  { geom := { w := 1, h := 1, alt := false }
    pb := []
    bcs := { ctas := .data, cont := Config.contInit, eoq := Config.eoqInit }
    irqMask := false
    seq := { phase := .idle, pix := 0, bit := 0 }
    st := .run
    fault := .none
    txReady := false
    txlog :=
      [.configure Config.cfgPin Config.wordBits Config.busBitOrder Config.busCpol,
       .setClockRate Config.dataHz .data, .setClockRate Config.resetHz .reset]
    pastLogs := []
    port := none
    moves := []
    params := Config.params }

end Sys2Proof.Machine
end

