-- ==== Sys2Proof/Machine/Flags.lean ====
section
/-!
DEFINITION. The block's flag-like bits and their writes: `IRQ_MASK`, `BCS.CTAS`, `TX_READY` (spec/10_state.md R30). The block has
no arithmetic flags, so no flag is computed from data.
-/
namespace Sys2Proof.Machine

/-- `IRQ_MASK <- on`, with its event in `TXLOG` (R24, R32, R101). -/
def State.setIrqMask (s : State) (on : Bool) : State :=
  { s with irqMask := on, txlog := s.txlog ++ [.irqMask on] }

/-- `BCS.CTAS <- p` (R23, R103). -/
def State.selectProfile (s : State) (p : Profile) : State :=
  { s with bcs := { s.bcs with ctas := p } }

/-- The Bus Transmitter's move `TX_READY <- 1`; without effect when it is 1 already (R105). -/
def State.raiseTxReady (s : State) : State := { s with txReady := true }

end Sys2Proof.Machine
end

