-- ==== Sys2Proof/Machine/Operands.lean ====
section
/-!
DEFINITION. The block's pure functions (spec/40_correct_and_translate.md R81 to R85), the range checks (spec/20_memory.md R46,
spec/41_buffer_commands.md R92, R94) and the construction clamp (spec/70_reset_and_hazards.md R141).
-/
namespace Sys2Proof.Machine

/-! ### Colour correction -/

/-- `R = rgb[23:16]` (R63). -/
def redOf (rgb : Rgb) : Channel := rgb.extractLsb' 16 8

/-- `G = rgb[15:8]` (R63). -/
def greenOf (rgb : Rgb) : Channel := rgb.extractLsb' 8 8

/-- `B = rgb[7:0]` (R63). -/
def blueOf (rgb : Rgb) : Channel := rgb.extractLsb' 0 8

/-- DIMDIV (R81): the floor quotient by `DIM`, 7 bits. -/
def dimdiv (c : Channel) : TableIndex := BitVec.ofNat 7 (c.toNat / Config.dim)

/-- `CCT(i)` (R82). -/
def cctLookup (t : CctTable) (i : TableIndex) : Channel := t[i.toNat]'i.isLt

/-- The 24-bit value `{hi, mid, lo}` of three channels (R11). -/
def packChannels (hi mid lo : Channel) : Entry := hi ++ mid ++ lo

/-- CORRECT (R83): corrected green in bits 23:16, corrected red in 15:8, corrected blue in 7:0 (R64). -/
def correct (t : CctTable) (rgb : Rgb) : Entry :=
  packChannels (cctLookup t (dimdiv (greenOf rgb))) (cctLookup t (dimdiv (redOf rgb))) (cctLookup t (dimdiv (blueOf rgb)))

/-! ### Address translation -/

/-- LIN2D (R84): `y * W + x`. -/
def lin2d (g : Geom) (x y : Nat) : Nat := y * g.w + x

/-- XLATE (R85), the serpentine address translator. -/
def xlate (g : Geom) (i : Nat) : Nat :=
  if g.alt then
    let row := i / g.w
    let col := i % g.w
    row * g.w + (if row % 2 = 1 then g.w - 1 - col else col)
  else i

/-! ### Range checks: signed, with the inclusive upper bound of the reference (`90_conflicts.md` C2) -/

/-- SET's check (R92): `0 <= index <= N`. -/
def indexAccepted (g : Geom) (index : Int) : Bool := decide (0 ≤ index) && decide (index ≤ (g.n : Int))

/-- SETXY's first check (R94): `0 <= x <= W` and `0 <= y <= H`. -/
def coordsAccepted (g : Geom) (x y : Int) : Bool :=
  decide (0 ≤ x) && decide (x ≤ (g.w : Int)) && decide (0 ≤ y) && decide (y ≤ (g.h : Int))

/-! ### Construction -/

/-- `max(1, v)` with a signed compare (R141). -/
def clampDim (v : IntWord) : Nat := (max Config.minDim v.toInt).toNat

end Sys2Proof.Machine
end

