-- ==== Sys2Proof/Machine/Ops.lean ====
section
/-!
DEFINITION. The operations the meanings share: access to the pixel buffer (spec/00_scope.md R13, spec/20_memory.md R40, R45),
`emit` and TXWORD (spec/42_send.md R104), recording a fault (spec/60_exceptions.md R122, R127) and the one way back from it,
construction (R128, spec/70_reset_and_hazards.md R140).
-/
namespace Sys2Proof.Machine

/-! ### The pixel buffer -/

/-- The entry of a slot; a slot not listed holds 0. -/
def Memory.read : Memory → Nat → Entry
  | [], _ => 0#24
  | (b, w) :: m, a => if a = b then w else Memory.read m a

/-- Writes one entry and keeps the canonical form: slots rising, no zero listed. -/
def Memory.write : Memory → Nat → Entry → Memory
  | [], a, v => if v = 0#24 then [] else [(a, v)]
  | (b, w) :: m, a, v =>
    if a < b then (if v = 0#24 then (b, w) :: m else (a, v) :: (b, w) :: m)
    else if a = b then (if v = 0#24 then m else (a, v) :: m)
    else (b, w) :: Memory.write m a v

/-- Every listed slot is above `a`. -/
def Memory.above (m : Memory) (a : Nat) : Bool := m.all fun c => decide (a < c.1)

/-- The canonical form (log 12): slots strictly rising, no zero listed. -/
def Memory.wf : Memory → Bool
  | [] => true
  | (a, v) :: m => Memory.above m a && decide (v ≠ 0#24) && Memory.wf m

/-- Every listed slot is below `n`: the buffer has exactly `N` entries (R22). -/
def Memory.within (m : Memory) (n : Nat) : Bool := m.all fun c => decide (c.1 < n)

/-- `PB[a]`: "defined only for `0 <= a < N`" (R13). -/
def State.pbRead (s : State) (a : Nat) : Option Entry :=
  if a < s.geom.n then some (Memory.read s.pb a) else none

/-- Every entry becomes 0 (R90). -/
def State.pbClear (s : State) : State := { s with pb := [] }

/-- `raise`: the model records the fault (R13, R122, R127). Nothing is saved, there is no vector and no handler. -/
def State.raise (s : State) (f : FaultRecord) : State := { s with fault := f }

/-- `PB[a] <- v`; for `a >= N` it is `raise OobWrite(a, v)` (R13, R122). -/
def State.pbWrite (s : State) (a : Nat) (v : Entry) : State :=
  if a < s.geom.n then { s with pb := Memory.write s.pb a v } else s.raise (.oobWrite a v)

/-! ### Tokens -/

/-- `emit(BCS.CTAS, w)` and `TX_READY <- 0`, one atomic step (R13, R104). -/
def State.emit (s : State) (w : BusWord) : State :=
  { s with txlog := s.txlog ++ [.token ⟨s.bcs.ctas, w⟩], txReady := false }

/-- TXWORD (R104): emits when `TX_READY = 1`; until then it waits, changing nothing (log 11). -/
def State.txWord (s : State) (w : BusWord) : State := if s.txReady then s.emit w else s

/-- TXRESET (R103): select `RESET`, TXWORD(0), select `DATA`; the second selection follows the word. -/
def State.txReset (s : State) : State :=
  let sel := s.selectProfile .reset
  if s.txReady then (sel.txWord s.params.bus.resetWord).selectProfile .data else sel

/-! ### Construction -/

/-- BUSINIT (R146): its three calls as events. -/
def busInitEvents (p : Params) (pin : Nat) : List Event :=
  [.configure pin p.bus.wordBits p.busBitOrder p.busCpol, .setClockRate p.dataHz .data, .setClockRate p.resetHz .reset]

/-- The geometry of a construction (R141). -/
def geomOf (p : Straps) : Geom := { w := clampDim p.cfgWidth, h := clampDim p.cfgHeight, alt := p.cfgAlt }

/-- The compatibility check (R143). -/
def rangeMatches (p : Straps) : Bool := decide (p.cctRange = Config.cctRangeExpected)

/-- The state CONSTRUCT leaves (R33, R140): all earlier state of the block is discarded. `TX_READY`, the port and the moves to
come belong to other agents and stay (log 4, 19); a failed check comes before BUSINIT (R120, log 8). -/
def State.constructed (s : State) (p : Straps) : State :=
  { geom := geomOf p
    pb := []
    bcs := { ctas := .data, cont := s.params.contInit, eoq := s.params.eoqInit }
    irqMask := false
    seq := { phase := .idle, pix := 0, bit := 0 }
    st := if rangeMatches p then .run else .halt
    fault := if rangeMatches p then .none else .cfgMismatch
    txReady := s.txReady
    txlog := if rangeMatches p then busInitEvents s.params p.cfgPin else []
    pastLogs := s.txlog :: s.pastLogs
    port := s.port
    moves := s.moves
    params := s.params }

/-- CONSTRUCT (R140): refused beyond the bound of R7 (R141). -/
def construct (p : Straps) (s : State) : Host.Outcome State Fault Refusal :=
  if geometryOk (geomOf p).w (geomOf p).h then .next (s.constructed p) else .refused .geometryOutOfBound

/-! ### The command port and the moves -/

/-- The host's word is on the port (R60). -/
def State.presentCommand (s : State) (w : CmdWord) : State := { s with port := some w }

/-- The port is empty: the command was taken, or the host presents none any more (R60). -/
def State.clearPort (s : State) : State := { s with port := none }

/-- Who moves next: the head of the list, and the block when the list is empty (log 1). -/
def State.nextMove (s : State) : Move := s.moves.headD .block

/-- The move is spent. -/
def State.popMove (s : State) : State := { s with moves := s.moves.tail }

end Sys2Proof.Machine
end

