-- ==== Sys2Proof/Machine/Buffer.lean ====
section
/-!
DEFINITION. The buffer commands CLEAR, SET, SETXY (spec/41_buffer_commands.md).
-/
namespace Sys2Proof.Machine

/-- SET's pseudocode (R92), which SETXY runs too ("delegates to the linear form"): check, correct, translate, write. A dropped
command changes nothing (R121). -/
def State.setLinear (s : State) (index : Int) (rgb : Rgb) : State :=
  if indexAccepted s.geom index then s.pbWrite (xlate s.geom index.toNat) (correct s.params.cct rgb) else s

/-- CLEAR (R90). -/
def execClear (s : State) : Host.Outcome State Fault Refusal := .next s.pbClear

/-- SET (R92). -/
def execSet (index : Int) (rgb : Rgb) (s : State) : Host.Outcome State Fault Refusal :=
  .next (s.setLinear index rgb)

/-- SETXY (R94): its own check, then the whole of SET. -/
def execSetxy (x y : Int) (rgb : Rgb) (s : State) : Host.Outcome State Fault Refusal :=
  .next (if coordsAccepted s.geom x y then s.setLinear (lin2d s.geom x.toNat y.toNat : Nat) rgb else s)

end Sys2Proof.Machine
end

