-- ==== Sys2Proof/Machine/Encoder.lean ====
section
/-!
DEFINITION. The output encoding (spec/30_encoding.md R67 to R69): what a bit, a pixel and a buffer become on the bus.
-/
namespace Sys2Proof.Machine

/-- `SYM(d)` (R67). -/
def sym (b : BusParams) (d : Bool) : BusWord := if d then b.word1 else b.word0

/-- `ENC24(v)` (R68): the 24 bits, most significant first, under the `DATA` profile. -/
def enc24 (b : BusParams) (v : Entry) : List Token :=
  (List.range 24).map fun k => ⟨.data, sym b (v.getLsbD (23 - k))⟩

/-- The tokens of the slots `0 .. n - 1` in order (R69). -/
def dataTokens (b : BusParams) (pb : Memory) (n : Nat) : List Token :=
  (List.range n).flatMap fun a => enc24 b (Memory.read pb a)

/-- `FRAME(PB)` (R69). -/
def frame (b : BusParams) (pb : Memory) (n : Nat) : List Token :=
  tokenRstOf b :: (dataTokens b pb n ++ [tokenRstOf b])

/-- The token at position `t` of the frame, by the formula of R69. -/
def frameAt (b : BusParams) (pb : Memory) (n t : Nat) : Token :=
  if t = 0 ∨ t = 24 * n + 1 then tokenRstOf b
  else ⟨.data, sym b ((Memory.read pb ((t - 1) / 24)).getLsbD (23 - (t - 1) % 24))⟩

end Sys2Proof.Machine
end

