-- ==== Sys2Proof/Machine/Send.lean ====
section
/-!
DEFINITION. SEND's acceptance and the micro-operations behind the token rows (spec/42_send.md R100, R103, R104, R106). The further
steps of a SEND are in Machine/Sequencer.lean.
-/
namespace Sys2Proof.Machine

/-- TXBIT (R106): TXWORD of the bit's symbol, under the selected profile. -/
def State.txBit (s : State) (d : Bool) : State := s.txWord (sym s.params.bus d)

/-- SEND, the step that accepts it (R100): `IRQ_MASK <- 1`, `SEQ.PHASE <- PRE_SEL`. -/
def execSend (s : State) : Host.Outcome State Fault Refusal :=
  .next { s.setIrqMask true with seq := { s.seq with phase := .preSel } }

/-- Row `TOKEN.RST`: TXRESET (R103). -/
def execTokenRst (s : State) : Host.Outcome State Fault Refusal := .next s.txReset

/-- Row `TOKEN.T0`: TXBIT(0) (R106). -/
def execTokenT0 (s : State) : Host.Outcome State Fault Refusal := .next (s.txBit false)

/-- Row `TOKEN.T1`: TXBIT(1) (R106). -/
def execTokenT1 (s : State) : Host.Outcome State Fault Refusal := .next (s.txBit true)

end Sys2Proof.Machine
end

