-- ==== Sys2Proof/Machine/Dispatch.lean ====
section
/-!
DEFINITION. One arm for each instruction.
-/
namespace Sys2Proof.Machine

/-- The meaning of an instruction: one arm for each row of the opcode table. -/
def exec (i : Instr) (s : State) : Host.Outcome State Fault Refusal :=
  match i with
  | .clear => Sys2Proof.Machine.execClear s
  | .set index rgb => Sys2Proof.Machine.execSet index rgb s
  | .setxy x y rgb => Sys2Proof.Machine.execSetxy x y rgb s
  | .send => Sys2Proof.Machine.execSend s
  | .tokenRst => Sys2Proof.Machine.execTokenRst s
  | .tokenT0 => Sys2Proof.Machine.execTokenT0 s
  | .tokenT1 => Sys2Proof.Machine.execTokenT1 s

end Sys2Proof.Machine
end

