-- ==== Sys2Proof/Machine/Ports.lean ====
section
/-!
DEFINITION. The block's output ports as functions of the state (spec/30_encoding.md R60, R73) and the encodings of its fields that
the spec numbers (spec/10_state.md R23, R25; spec/60_exceptions.md R124). Nothing in State stores them.
-/
namespace Sys2Proof.Machine

/-- `CMD_READY` (R60). -/
def State.cmdReady (s : State) : Bool :=
  decide (s.st = .run) && decide (s.seq.phase = .idle) && decide (s.fault = .none)

/-- `CMD_VALID` (R60). -/
def State.cmdValid (s : State) : Bool := s.port.isSome

/-- The word the sequencer is to hand over next, if it stands in a transmitting phase (R100). -/
def State.pendingWord (s : State) : Option BusWord :=
  match s.seq.phase with
  | .idle | .preSel | .postSel => none
  | .preTx | .postTx => some s.params.bus.resetWord
  | .dataTx => (s.pbRead s.seq.pix).map fun v => sym s.params.bus (v.getLsbD s.seq.bit.val)

/-- The step to come is one of the running block: its turn (R8, log 1), `ST = RUN` (R26), and no `OobWrite` that leaves the step
without a meaning (R122). -/
def State.blockRuns (s : State) : Bool :=
  decide (s.nextMove = .block) && decide (s.st = .run) && match s.fault with
    | .none | .cfgMismatch => true
    | .oobWrite _ _ => false

/-- `TX_VALID` with `TX_PROFILE` and `TX_WORD`: the token of the step to come, "valid for the one step in which TXWORD emits"; none
in a step of the host or of the transmitter (R66, R73, R104). -/
def State.txPort (s : State) : Option Token :=
  if s.blockRuns && s.txReady then s.pendingWord.map fun w => ⟨s.bcs.ctas, w⟩ else none

/-- `TX_READY_CLR`, "in the same step as `TX_VALID`" (R73). -/
def State.txReadyClr (s : State) : Bool := s.txPort.isSome

/-- `CCT_IDX`: the three table indices of a colour, for red, green and blue (R43, R73). -/
def cctIdx (rgb : Rgb) : TableIndex × TableIndex × TableIndex :=
  (dimdiv (redOf rgb), dimdiv (greenOf rgb), dimdiv (blueOf rgb))

/-- `SEQ.PHASE` as 3 bits (R25). -/
def Phase.code : Phase → BitVec 3
  | .idle    => 0
  | .preSel  => 1
  | .preTx   => 2
  | .dataTx  => 3
  | .postSel => 4
  | .postTx  => 5

/-- `BCS` as 3 bits: `CTAS` bit 0, `CONT` bit 1, `EOQ` bit 2 (R23). -/
def Bcs.bits (b : Bcs) : BitVec 3 := BitVec.ofBool b.eoq ++ BitVec.ofBool b.cont ++ b.ctas.code

/-- The codes of R124. -/
def FaultRecord.code : FaultRecord → Nat
  | .none         => 0
  | .cfgMismatch  => 1
  | .oobWrite _ _ => 2

end Sys2Proof.Machine
end

