-- ==== Sys2Proof/Machine/Sequencer.lean ====
section
/-!
DEFINITION. What the block does when it has the turn (spec/30_encoding.md R60; spec/42_send.md R100): take a command, or go on with
the SEND in progress. Machine/Step.lean runs what is fetched here.
-/
namespace Sys2Proof.Machine

/-- What the block's turn holds. -/
inductive Fetched where
  /-- No step of the block is enabled: no command to take, or `HALT` (R26, R60). -/
  | nothing
  /-- A command is taken from the port (R60). -/
  | command (i : Instr)
  /-- `PRE_SEL` or `POST_SEL` (R100). -/
  | select
  /-- A transmitting phase: the micro-operation it performs (R100). -/
  | token (i : Instr)
  /-- `SEQ.PIX` names a slot that does not exist. -/
  | missing (slot : Nat)
  deriving DecidableEq, Repr

/-- The micro-operation of `DATA_TX`: TXBIT of `PB[SEQ.PIX][SEQ.BIT]` (R100, R106). -/
def State.fetchBit (s : State) : Fetched :=
  match s.pbRead s.seq.pix with
  | none   => .missing s.seq.pix
  | some v => if v.getLsbD s.seq.bit.val then .token .tokenT1 else .token .tokenT0

/-- A command is taken at `CMD_VALID = 1` and `CMD_READY = 1` (R60). -/
def State.fetchCommand (s : State) : Fetched :=
  match s.port with
  | none   => .nothing
  | some w => if s.cmdReady then .command (decodeCommand w) else .nothing

/-- The block's turn, by the phase (R100); a halted block has none (R26, R120). -/
def State.fetch (s : State) : Fetched :=
  if s.st = .halt then .nothing
  else match s.seq.phase with
    | .idle    => s.fetchCommand
    | .preSel  => .select
    | .preTx   => .token .tokenRst
    | .dataTx  => s.fetchBit
    | .postSel => .select
    | .postTx  => .token .tokenRst

/-- `BCS.CTAS <- RESET` and the next phase (R100, `PRE_SEL` and `POST_SEL`). -/
def State.selectReset (s : State) : State :=
  { s.selectProfile .reset with
    seq := { s.seq with phase := if s.seq.phase = .preSel then .preTx else .postTx } }

/-- The sequencer after a token of `DATA_TX` (R100): next bit, next pixel, or the second reset pulse. -/
def nextDataSeq (n : Nat) (q : Seq) : Seq :=
  if 0 < q.bit.val then { q with bit := ⟨q.bit.val - 1, by omega⟩ }
  else if q.pix + 1 < n then { q with pix := q.pix + 1, bit := 23 }
  else { q with phase := .postSel }

/-- What follows the emission in the transmitting phases (R100), for the state `s` before the micro-operation and its result. A
phase that still waits for `TX_READY` stays where it is. -/
def State.advance (s after : State) : State :=
  if s.txReady then
    match s.seq.phase with
    | .idle | .preSel | .postSel => after
    | .preTx  => { after with seq := { phase := .dataTx, pix := 0, bit := 23 } }
    | .dataTx => { after with seq := nextDataSeq s.geom.n s.seq }
    | .postTx => { after.setIrqMask false with seq := { s.seq with phase := .idle } }
  else after

end Sys2Proof.Machine
end

