-- ==== Sys2Proof/Machine/Turn.lean ====
section
/-!
DEFINITION. What each move does (spec/00_scope.md R8, R9): the block's turn, the Bus Transmitter's move, the host's moves and
construction; and the states from which a given instruction is the next thing the block does.
-/
namespace Sys2Proof.Machine

/-- Applies a function to the next state of an outcome. -/
def onNext (f : State → State) : Host.Outcome State Fault Refusal → Host.Outcome State Fault Refusal
  | .next s    => .next (f s)
  | .fault r   => .fault r
  | .refused r => .refused r

/-- The block's turn (R60, R100). -/
def blockStep (s : State) : Host.Outcome State Fault Refusal :=
  match s.fetch with
  | .nothing   => .next s
  | .command i => exec i s.clearPort
  | .select    => .next s.selectReset
  | .token i   => onNext s.advance (exec i s)
  | .missing a => .fault (.readOutsideBuffer a)

/-- After `OobWrite` no step has a meaning (R13, R122, R123); `CfgMismatch` leaves the block halted and the step defined (R120). -/
def unlessOobWrite (s : State) (o : Host.Outcome State Fault Refusal) : Host.Outcome State Fault Refusal :=
  match s.fault with
  | .none         => o
  | .cfgMismatch  => o
  | .oobWrite a v => .fault (.oobWrite a v)

/-- One move. Only a construction gives a faulted machine a next state (R123, R128). -/
def runMove (m : Move) (s : State) : Host.Outcome State Fault Refusal :=
  match m with
  | .block            => unlessOobWrite s (blockStep s)
  | .transmitterReady => unlessOobWrite s (.next s.raiseTxReady)
  | .present w        => unlessOobWrite s (.next (s.presentCommand w))
  | .withdraw         => unlessOobWrite s (.next s.clearPort)
  | .construct p      => construct p s

/-- The state in which the block takes the next command of the port: running, idle, no fault, the block's turn. -/
def State.readyForCommand (s : State) : State :=
  { s with st := .run, fault := .none, seq := { s.seq with phase := .idle }, moves := .block :: s.moves }

/-- The state in which a SEND in progress is about to hand over a token and the transmitter has capacity. -/
def State.readyForToken (s : State) (ph : Phase) (p : Profile) : State :=
  { s with st := .run, fault := .none, irqMask := true, txReady := true, bcs := { s.bcs with ctas := p }
           seq := { phase := ph, pix := 0, bit := 23 }, moves := .block :: s.moves }

end Sys2Proof.Machine
end

