-- ==== Sys2Proof/Machine/Step.lean ====
section
/-!
DEFINITION. One step: one move of one agent (spec/00_scope.md R8, R9; log 1).
-/
namespace Sys2Proof.Machine

/-- One step: the next move of the list, or the block's turn when the list is empty. -/
def step (s : State) : Host.Outcome State Fault Refusal := runMove s.nextMove s.popMove

/-- `s` with the table's word where the next step takes it: a command on the port, or the position of a SEND that emits the token
(log 17). A word the decoder refuses leaves `s` as it is. -/
def State.withFetchWord (s : State) (nbits w : Nat) : State :=
  match decodeTableWord nbits w with
  | none   => s
  | some i => match i with
    | .clear | .set _ _ | .setxy _ _ _ | .send => s.readyForCommand.presentCommand (BitVec.ofNat 90 w)
    | .tokenRst => s.readyForToken .preTx .reset
    | .tokenT0  => { s.readyForToken .dataTx .data with pb := Memory.write s.pb 0 0 }
    | .tokenT1  => { s.readyForToken .dataTx .data with pb := Memory.write s.pb 0 0x800000 }

end Sys2Proof.Machine
end

