-- ==== Sys2Proof/Safety.lean ====
section
/-!
DEFINITION. What counts as a safe run: the invariant of the machine (spec/10_state.md R34), the mask over the output sequence
(spec/42_send.md R101), and schedules on which a SEND ends (R105).
-/
namespace Sys2Proof.Machine

/-- A value `{cg, cr, cb}` of the table's image (R34 e). -/
def inCctImage (t : CctTable) (v : Entry) : Prop :=
  ∃ i j k : TableIndex, v = packChannels (cctLookup t i) (cctLookup t j) (cctLookup t k)

/-- The profile the selector holds in each phase (R23, R103: `RESET` only between the two writes of a reset pulse). -/
def Phase.profile : Phase → Profile
  | .idle | .preSel | .dataTx | .postSel => .data
  | .preTx | .postTx => .reset

/-- The invariant of R34, with what it needs: the parameters' constraints (R7), the canonical form of the buffer (log 12), the
position of the sequencer (R25, `90_conflicts.md` C10) and the agreement of `ST` and `FAULT` (R26). -/
structure State.Inv (s : State) : Prop where
  params  : s.params.bus.wellFormed = true
  geom    : geometryOk s.geom.w s.geom.h = true
  pbForm  : Memory.wf s.pb = true
  pbSlots : Memory.within s.pb s.geom.n = true
  pbImage : ∀ a, Memory.read s.pb a = 0 ∨ inCctImage s.params.cct (Memory.read s.pb a)
  mask    : s.irqMask = decide (s.seq.phase ≠ .idle)
  profile : s.bcs.ctas = s.seq.phase.profile
  pix     : s.seq.phase = .dataTx → s.seq.pix < s.geom.n
  busy    : s.seq.phase ≠ .idle → s.st = .run ∧ s.fault = .none
  halted  : s.st = .halt ↔ s.fault = .cfgMismatch

/-- The mask after a log, if every token of it stands under a mask of 1 (R32, R101). -/
def replayMask : Bool → List Event → Option Bool
  | m, [] => some m
  | _, .irqMask on :: l => replayMask on l
  | m, .token _ :: l => if m then replayMask m l else none
  | m, .configure _ _ _ _ :: l => replayMask m l
  | m, .setClockRate _ _ :: l => replayMask m l

/-- A token is one of the three of R66. -/
def isFrameToken (b : BusParams) (t : Token) : Bool :=
  decide (t = tokenRstOf b) || decide (t = tokenT0Of b) || decide (t = tokenT1Of b)

/-- Every token of a log is one of the three of R66. -/
def logTokensOk (b : BusParams) (l : List Event) : Bool :=
  l.all fun e => match e with
    | .token t => isFrameToken b t
    | .irqMask _ => true
    | .configure _ _ _ _ => true
    | .setClockRate _ _ => true

/-- `n` rounds in which the transmitter raises its flag and then the block has the turn: a schedule that keeps the assumption of
R105. -/
def fairRounds : Nat → List Move
  | 0 => []
  | n + 1 => .transmitterReady :: .block :: fairRounds n

/-- The number of tokens of the frame already emitted, by the position of the sequencer (R100). -/
def State.sentTokens (s : State) : Nat :=
  match s.seq.phase with
  | .idle | .preSel | .preTx => 0
  | .dataTx => 1 + 24 * s.seq.pix + (23 - s.seq.bit.val)
  | .postSel | .postTx => 1 + 24 * s.geom.n

/-- A move of the host or of the transmitter's environment other than `RST`. -/
def Move.isConstruct : Move → Bool
  | .construct _ => true
  | .block | .transmitterReady | .present _ | .withdraw => false

end Sys2Proof.Machine
end

