-- ==== Sys2Proof/Certificates/Slice0/Obligations.lean ====
section
/-!
DEFINITION. The statements for the provers. Each formalises the rules of spec/ that its docstring names.
-/
open Sys2Proof Sys2Proof.Machine

namespace Sys2Proof.Claims

/-- The tokens of a log, in order (R32). -/
def tokensOf (l : List Event) : List Token :=
  l.filterMap fun e => match e with
    | .token t => some t
    | .irqMask _ => none
    | .configure _ _ _ _ => none
    | .setClockRate _ _ => none

/-- The frame of the buffer as events (R69, R107). -/
def frameEvents (s : State) : List Event := (frame s.params.bus s.pb s.geom.n).map Event.token

/-- The log of a SEND in progress: what stood before it, the mask event, and the tokens already sent (R107). -/
def FrameSoFar (s : State) (before : List Event) : Prop :=
  s.txlog = before ++ .irqMask true :: (frameEvents s).take s.sentTokens

/-- A state with other values in the two flags the spec leaves without a value (R23). -/
def withUnvalued (cont eoq : Bool) (s : State) : State :=
  { s with bcs := { s.bcs with cont := cont, eoq := eoq } }

/-- What one instruction writes to a slot, by the outcome tables R93 and R95 (nothing when it is dropped). -/
def storeOf (g : Geom) (t : CctTable) (slot : Nat) : Instr → Option Entry
  | .clear => some 0
  | .set index rgb =>
    if 0 ≤ index ∧ index < g.n ∧ xlate g index.toNat = slot then some (correct t rgb) else none
  | .setxy x y rgb =>
    if 0 ≤ x ∧ x ≤ g.w ∧ 0 ≤ y ∧ y ≤ g.h ∧ y * g.w + x < g.n ∧ xlate g (y * g.w + x).toNat = slot
    then some (correct t rgb) else none
  | .send | .tokenRst | .tokenT0 | .tokenT1 => none

/-- CLEAR, SET and SETXY. -/
def isBufferCommand : Instr → Bool
  | .clear | .set _ _ | .setxy _ _ _ => true
  | .send | .tokenRst | .tokenT0 | .tokenT1 => false

/-- The last value written to a slot by a list of instructions, or the value it had (R96). -/
def contentAfter (g : Geom) (t : CctTable) (slot : Nat) (before : Entry) (is : List Instr) : Entry :=
  is.foldl (fun v i => (storeOf g t slot i).getD v) before

/-- The instructions of a list, one after the other. -/
def execAll : List Instr → State → Host.Outcome State Fault Refusal
  | [], s => .next s
  | i :: is, s => match exec i s with
    | .next t    => execAll is t
    | .fault r   => .fault r
    | .refused r => .refused r

end Sys2Proof.Claims

open Sys2Proof.Claims

/-! ### Encodings -/

/-- Printed words of `95_test_vectors.md` V8 decode to their listings; `0xFFFFFFFF` is index -1 (R65). -/
def Obligations.PrintedCommandWordsDecode : Prop :=
  decodeCommand 0x00000000000000000000000 = .clear ∧
  decodeCommand 0x30000000000000000000000 = .send ∧
  decodeCommand 0x10000000500000000102030 = .set 5 0x102030 ∧
  decodeCommand 0x1FFFFFFFF00000000FFFFFF = .set (-1) 0xFFFFFF ∧
  decodeCommand 0x20000000100000001102030 = .setxy 1 1 0x102030 ∧
  decodeCommand 0x2000000040000000000FF00 = .setxy 4 0 0x00FF00 ∧
  decodeCommand 0x0DEADBEEFCAFEF00D123456 = .clear

/-- R62: the match and mask of each row, its operands, and that every word is one of the four. -/
def Obligations.EveryWordMatchesTheRowItDecodesTo : Prop :=
  ∀ w : CmdWord,
    (w &&& 0x30000000000000000000000 = 0x00000000000000000000000 ↔ decodeCommand w = .clear) ∧
    (w &&& 0x30000000000000000000000 = 0x10000000000000000000000 ↔
      decodeCommand w = .set (aField w).toInt (rgbField w)) ∧
    (w &&& 0x30000000000000000000000 = 0x20000000000000000000000 ↔
      decodeCommand w = .setxy (aField w).toInt (bField w).toInt (rgbField w)) ∧
    (w &&& 0x30000000000000000000000 = 0x30000000000000000000000 ↔ decodeCommand w = .send) ∧
    (decodeCommand w).isCommand = true ∧ (decodeCommand w).wellFormed = true

/-- R61 and R65: the places of the fields, which fields each command reads, and that the integer fields are signed. -/
def Obligations.CommandFieldsStandWhereTheFormatSays : Prop :=
  ∀ (op : BitVec 2) (a b : IntWord) (rgb : Rgb) (w : CmdWord),
    w.toNat = op.toNat * 2 ^ 88 + a.toNat * 2 ^ 56 + b.toNat * 2 ^ 24 + rgb.toNat →
    decodeCommand w =
      if op = 0 then .clear
      else if op = 1 then .set a.toInt rgb
      else if op = 2 then .setxy a.toInt b.toInt rgb
      else .send

/-- Decode and encode agree on every well-formed instruction, the token rows included, for every legal pair of patterns. -/
def Obligations.DecodeOfEncodeIsTheInstruction : Prop :=
  ∀ (b : BusParams) (i : Instr), b.wellFormed = true → i.wellFormed = true → decode b (encode b i) = .ok i

/-- R66: of all tokens exactly three stand for a row, and each for one. Reading tokens back is the model's own (log 10). -/
def Obligations.OnlyTheThreeTokensDecode : Prop :=
  ∀ (b : BusParams) (t : Token), b.wellFormed = true →
    (∀ i, decode b (.token t) = .ok i ↔ encode b i = .token t) ∧
    ((∃ e, decode b (.token t) = .error e) ↔ t ≠ tokenRstOf b ∧ t ≠ tokenT0Of b ∧ t ≠ tokenT1Of b)

/-! ### Construction and reset -/

/-- The state after reset: the default geometry (log 3), everything else as R33 says. -/
def Obligations.ResetStateIsTheDefaultConstruction : Prop :=
  State.reset.geom = { w := 1, h := 1, alt := false } ∧
  State.reset.pbRead 0 = some 0 ∧
  State.reset.bcs = { ctas := .data, cont := Config.contInit, eoq := Config.eoqInit } ∧
  State.reset.irqMask = false ∧ State.reset.seq.phase = .idle ∧
  State.reset.st = .run ∧ State.reset.fault = .none ∧ State.reset.cmdReady = true ∧
  tokensOf State.reset.txlog = []

/-- R33: the value of every piece of state after construction. What a halted block holds (log 8) and that BUSINIT is logged (log 14)
are the model's choices. -/
def Obligations.ConstructionLeavesTheResetValues : Prop :=
  ∀ (s : State) (p : Straps), s.nextMove = .construct p →
    geometryOk (geomOf p).w (geomOf p).h = true →
    ∃ t, step s = .next t ∧
      (t.geom.w : Int) = max 1 p.cfgWidth.toInt ∧ (t.geom.h : Int) = max 1 p.cfgHeight.toInt ∧ t.geom.alt = p.cfgAlt ∧
      (∀ a, t.pbRead a = if a < t.geom.w * t.geom.h then some 0 else none) ∧
      t.bcs.ctas = .data ∧ t.bcs.eoq = s.params.eoqInit ∧ t.bcs.cont = s.params.contInit ∧
      t.irqMask = false ∧ t.seq.phase = .idle ∧
      (p.cctRange = 0x100 → t.st = .run ∧ t.fault = .none ∧ t.cmdReady = true ∧
        t.txlog = [.configure p.cfgPin s.params.bus.wordBits s.params.busBitOrder s.params.busCpol,
          .setClockRate s.params.dataHz .data, .setClockRate s.params.resetHz .reset]) ∧
      (p.cctRange ≠ 0x100 → t.st = .halt ∧ t.fault = .cfgMismatch ∧ t.cmdReady = false)

/-- R141: the clamp, each dimension on its own, and the bound beyond which an instance has no meaning; that the model refuses it
there is the model's choice (log 9). -/
def Obligations.ConstructionClampsOrRefusesTheGeometry : Prop :=
  ∀ (s : State) (p : Straps), s.nextMove = .construct p →
    ((max 1 p.cfgWidth.toInt + 1) * (max 1 p.cfgHeight.toInt + 1) ≤ 2 ^ 31 - 1 →
      ∃ t, step s = .next t ∧
        (t.geom.w : Int) = max 1 p.cfgWidth.toInt ∧ (t.geom.h : Int) = max 1 p.cfgHeight.toInt) ∧
    (2 ^ 31 - 1 < (max 1 p.cfgWidth.toInt + 1) * (max 1 p.cfgHeight.toInt + 1) →
      step s = .refused .geometryOutOfBound)

/-- R26, R120: a halted block takes no command and emits no token, whatever any agent does, until a new construction. The model's
choices: that its turn answers a next state, an idle turn (log 11), and that it does so whatever `SEQ.PHASE` holds, which is `IDLE` in
every halted state a run reaches (log 20). -/
def Obligations.HaltedBlockStaysHalted : Prop :=
  ∀ s : State, s.st = .halt → s.fault = .cfgMismatch → s.nextMove.isConstruct = false →
    ∃ t, step s = .next t ∧ t.st = .halt ∧ t.fault = .cfgMismatch ∧ t.cmdReady = false ∧
      t.geom = s.geom ∧ t.pb = s.pb ∧ t.bcs = s.bcs ∧ t.irqMask = s.irqMask ∧ t.seq = s.seq ∧ t.txlog = s.txlog

/-- R13, R122: after `OobWrite` no step has a meaning; the model stops there (log 7). -/
def Obligations.NoStepAfterOobWrite : Prop :=
  ∀ (s : State) (a : Nat) (v : Entry), s.fault = .oobWrite a v → s.nextMove.isConstruct = false →
    step s = .fault (.oobWrite a v)

/-- R123: `FAULT` is written at most once, by a failed construction or by an out-of-range write, and only a construction clears it.
The write comes from SET with index `N`, or SETXY with `(W, H - 1)` or `(0, H)`. After `OobWrite` no step has a next state (log 7). -/
def Obligations.FaultIsWrittenOnceAndOnlyConstructionClearsIt : Prop :=
  ∀ s t : State, s.Inv → step s = .next t →
    (∀ p, s.nextMove = .construct p → t.fault = if p.cctRange = 0x100 then .none else .cfgMismatch) ∧
    (s.nextMove.isConstruct = false → s.fault ≠ .none → t.fault = s.fault) ∧
    (s.nextMove.isConstruct = false → t.fault ≠ s.fault →
      s.fault = .none ∧ s.nextMove = .block ∧ s.cmdReady = true ∧
      t.fault = .oobWrite (xlate s.geom s.geom.n)
        (correct s.params.cct (rgbField (s.port.getD 0))) ∧
      ∃ w, s.port = some w ∧
        ((opField w = 1 ∧ (aField w).toInt = s.geom.n) ∨
         (opField w = 2 ∧ (((aField w).toInt = s.geom.w ∧ (bField w).toInt = s.geom.h - 1) ∨
           ((aField w).toInt = 0 ∧ (bField w).toInt = s.geom.h)))))

/-! ### The datapath and the translator -/

/-- R83 with R63, R64, R81: each channel halved (floor), looked up, and put at its place; green in 23:16, red in 15:8, blue in 7:0. -/
def Obligations.CorrectDimsLooksUpAndPermutes : Prop :=
  ∀ (t : CctTable) (red green blue : Channel),
    ∃ (hr : red.toNat / 2 < 128) (hg : green.toNat / 2 < 128) (hb : blue.toNat / 2 < 128),
    (correct t (red ++ green ++ blue)).toNat =
      (t[green.toNat / 2]'hg).toNat * 65536 + (t[red.toNat / 2]'hr).toNat * 256 + (t[blue.toNat / 2]'hb).toNat

/-- R86 (a) to (e): inside the buffer the translator stays inside, keeps the row and is its own inverse, hence one to one; it is
the identity when `ALT = 0` and on even rows, and mirrors odd rows. -/
def Obligations.TranslatorIsItsOwnInverse : Prop :=
  ∀ (g : Geom) (i : Nat), i < g.n →
    xlate g i < g.n ∧ xlate g i / g.w = i / g.w ∧ xlate g (xlate g i) = i ∧
    (∀ j, j < g.n → xlate g j = xlate g i → j = i) ∧
    (g.alt = false → xlate g i = i) ∧
    (g.alt = true → i / g.w % 2 = 1 → xlate g i = i / g.w * g.w + (g.w - 1 - i % g.w)) ∧
    (g.alt = true → i / g.w % 2 = 0 → xlate g i = i / g.w * g.w + i % g.w ∧ xlate g i = i)

/-- R87: where the translator sends the index `N`; always outside the buffer. -/
def Obligations.TranslatorSendsTheBoundaryIndexOutside : Prop :=
  ∀ g : Geom, 1 ≤ g.w → 1 ≤ g.h →
    (g.alt = false → xlate g g.n = g.n) ∧
    (g.alt = true → g.h % 2 = 0 → xlate g g.n = g.n) ∧
    (g.alt = true → g.h % 2 = 1 → xlate g g.n = g.n + g.w - 1) ∧
    g.n ≤ xlate g g.n

/-- R89: the slot of a pair of coordinates, with the alias `x = W`. -/
def Obligations.CoordinatesReachTheirSlot : Prop :=
  ∀ (g : Geom) (x y : Nat), 1 ≤ g.w → 1 ≤ g.h →
    (x < g.w → y < g.h → xlate g (lin2d g x y) =
      if g.alt = false ∨ y % 2 = 0 then y * g.w + x else y * g.w + (g.w - 1 - x)) ∧
    (x = g.w → y + 1 < g.h → xlate g (lin2d g x y) = xlate g (lin2d g 0 (y + 1)) ∧
      xlate g (lin2d g x y) =
        if g.alt = false ∨ (y + 1) % 2 = 0 then (y + 1) * g.w else (y + 1) * g.w + g.w - 1) ∧
    (x = g.w → y = g.h - 1 → lin2d g x y = g.n) ∧ (x = 0 → y = g.h → lin2d g x y = g.n)

/-! ### The buffer commands -/

/-- R90: CLEAR, whatever its unused fields hold, makes every entry the number 0, whatever `CCT(0)` is, changes nothing else and is
idempotent. It always completes. -/
def Obligations.ClearZeroesEverySlot : Prop :=
  ∀ (s : State) (w : CmdWord), opField w = 0 → decodeCommand w = .clear ∧
    ∃ t, exec .clear s = .next t ∧
      (∀ a, t.pbRead a = if a < s.geom.n then some 0 else none) ∧
      t = { s with pb := t.pb } ∧ exec .clear t = .next t

/-- R93: the outcome of SET for every index, with its frame: one slot changes and nothing else, or nothing at all. The buffer is in
its canonical form (log 12), which every step keeps. -/
def Obligations.SetOutcomeForEveryIndex : Prop :=
  ∀ (s : State) (index : Int) (rgb : Rgb), Memory.wf s.pb = true →
    (index < 0 → exec (.set index rgb) s = .next s) ∧
    (0 ≤ index → index < s.geom.n →
      xlate s.geom index.toNat < s.geom.n ∧
      ∃ t, exec (.set index rgb) s = .next t ∧ t = { s with pb := t.pb } ∧
        ∀ a, t.pbRead a =
          if a = xlate s.geom index.toNat then some (correct s.params.cct rgb) else s.pbRead a) ∧
    (index = s.geom.n →
      s.geom.n ≤ xlate s.geom s.geom.n ∧
      exec (.set index rgb) s =
        .next { s with fault := .oobWrite (xlate s.geom s.geom.n) (correct s.params.cct rgb) }) ∧
    (s.geom.n < index → exec (.set index rgb) s = .next s)

/-- R95: the outcome of SETXY for every pair of coordinates, with its frame. -/
def Obligations.SetxyOutcomeForEveryCoordinate : Prop :=
  ∀ (s : State) (x y : Int) (rgb : Rgb),
    Memory.wf s.pb = true → geometryOk s.geom.w s.geom.h = true →
    (x < 0 ∨ y < 0 ∨ s.geom.w < x ∨ s.geom.h < y → exec (.setxy x y rgb) s = .next s) ∧
    (0 ≤ x → x < s.geom.w → 0 ≤ y → y < s.geom.h →
      y * s.geom.w + x < s.geom.n ∧
      ∃ t, exec (.setxy x y rgb) s = .next t ∧ t = { s with pb := t.pb } ∧
        ∀ a, t.pbRead a =
          if a = xlate s.geom (y * s.geom.w + x).toNat then some (correct s.params.cct rgb) else s.pbRead a) ∧
    (x = s.geom.w → 0 ≤ y → y ≤ s.geom.h - 2 →
      (y + 1) * s.geom.w < s.geom.n ∧
      ∃ t, exec (.setxy x y rgb) s = .next t ∧ t = { s with pb := t.pb } ∧
        ∀ a, t.pbRead a =
          if a = xlate s.geom ((y + 1) * s.geom.w).toNat then some (correct s.params.cct rgb) else s.pbRead a) ∧
    ((x = s.geom.w ∧ y = s.geom.h - 1) ∨ (x = 0 ∧ y = s.geom.h) →
      exec (.setxy x y rgb) s =
        .next { s with fault := .oobWrite (xlate s.geom s.geom.n) (correct s.params.cct rgb) }) ∧
    (1 ≤ x → x ≤ s.geom.w → y = s.geom.h → exec (.setxy x y rgb) s = .next s)

/-- R96: after any list of buffer commands none of which raises `OobWrite`, each slot holds what the last of them wrote to it. -/
def Obligations.SlotsHoldTheLastAcceptedWrite : Prop :=
  ∀ (is : List Instr) (s t : State), is.all isBufferCommand = true →
    s.Inv → s.fault = .none → execAll is s = .next t → t.fault = .none →
    ∀ a, a < s.geom.n →
      t.pbRead a = some (contentAfter s.geom s.params.cct a (Memory.read s.pb a) is)

/-- Two buffers in canonical form that read alike are equal data (log 12). -/
def Obligations.EqualReadingBuffersAreEqual : Prop :=
  ∀ m m' : Memory, Memory.wf m = true → Memory.wf m' = true →
    (∀ a, Memory.read m a = Memory.read m' a) → m = m'

/-! ### SEND -/

/-- R100, the accepting step: mask first, then the sequencer; nothing else. SEND is never dropped. -/
def Obligations.SendIsAcceptedUnderTheMask : Prop :=
  ∀ s : State, exec .send s =
    .next { s with
      irqMask := true
      txlog := s.txlog ++ [.irqMask true]
      seq := { s.seq with phase := .preSel } }

/-- R103: TXRESET emits the zero word under `RESET` and is back under `DATA`. The model's choices: that TXRESET as an instruction
selects `RESET` first and does so while the flag is still 0 (log 10), and that waiting is a next state (log 11). -/
def Obligations.ResetPulseEmitsOneZeroWord : Prop :=
  ∀ s : State,
    (s.txReady = true → exec .tokenRst s =
      .next { s with
        bcs := { s.bcs with ctas := .data }
        txReady := false
        txlog := s.txlog ++ [.token ⟨.reset, ⟨s.params.bus.wordBits, 0⟩⟩] }) ∧
    (s.txReady = false → exec .tokenRst s = .next { s with bcs := { s.bcs with ctas := .reset } })

/-- R104 and R106: TXBIT hands over the bit's pattern under the selected profile and clears the flag. The model's choice:
while the flag is 0, where R104 waits, exec answers the state unchanged (log 11). -/
def Obligations.DataBitEmitsItsPattern : Prop :=
  ∀ s : State,
    (s.txReady = true → exec .tokenT0 s =
      .next { s with
        txReady := false
        txlog := s.txlog ++ [.token ⟨s.bcs.ctas, ⟨s.params.bus.wordBits, s.params.bus.pat0⟩⟩] }) ∧
    (s.txReady = true → exec .tokenT1 s =
      .next { s with
        txReady := false
        txlog := s.txlog ++ [.token ⟨s.bcs.ctas, ⟨s.params.bus.wordBits, s.params.bus.pat1⟩⟩] }) ∧
    (s.txReady = false → exec .tokenT0 s = .next s ∧ exec .tokenT1 s = .next s) ∧
    (∀ w : BusWord, s.txWord w =
      if s.txReady then { s with txReady := false, txlog := s.txlog ++ [.token ⟨s.bcs.ctas, w⟩] } else s)

/-- R60: at the block's turn the command on the port is taken when `CMD_READY = 1` and run whole. The model's choices: the step
takes the word off the port (log 13) and spends the turn (log 1). -/
def Obligations.StepRunsThePresentedCommand : Prop :=
  ∀ (s : State) (w : CmdWord), s.nextMove = .block → s.cmdReady = true → s.port = some w →
    step s = exec (decodeCommand w) { s with moves := s.moves.tail, port := none }

/-- R100, the sequencer's lines: the step that accepts a SEND, what each phase's step does when it is enabled. The model's
choices: a phase that waits for `TX_READY` takes a step that spends the turn only (log 11), the port is emptied when the command is
taken (log 13), the list of moves (log 1), and that the token rows run through exec (log 10). -/
def Obligations.StepFollowsTheSendSequencer : Prop :=
  ∀ s : State, s.nextMove = .block → s.Inv →
    (∀ w, s.cmdReady = true → s.port = some w → opField w = 3 → step s =
      .next { s with
        moves := s.moves.tail, port := none, irqMask := true, txlog := s.txlog ++ [.irqMask true]
        seq := { s.seq with phase := .preSel } }) ∧
    (s.seq.phase = .preSel → step s =
      .next { s with moves := s.moves.tail, bcs := { s.bcs with ctas := .reset }, seq := { s.seq with phase := .preTx } }) ∧
    (s.seq.phase = .postSel → step s =
      .next { s with moves := s.moves.tail, bcs := { s.bcs with ctas := .reset }, seq := { s.seq with phase := .postTx } }) ∧
    (s.seq.phase = .preTx → s.txReady = true → ∃ t,
      exec .tokenRst { s with moves := s.moves.tail } = .next t ∧
      step s = .next { t with seq := { phase := .dataTx, pix := 0, bit := 23 } }) ∧
    (s.seq.phase = .dataTx → s.txReady = true → ∃ t,
      exec (if (Memory.read s.pb s.seq.pix).getLsbD s.seq.bit.val then .tokenT1 else .tokenT0)
        { s with moves := s.moves.tail } = .next t ∧
      ∃ q : Seq, step s = .next { t with seq := q } ∧
        (0 < s.seq.bit.val → q.phase = .dataTx ∧ q.pix = s.seq.pix ∧ q.bit.val = s.seq.bit.val - 1) ∧
        (s.seq.bit.val = 0 → s.seq.pix + 1 < s.geom.n → q.phase = .dataTx ∧ q.pix = s.seq.pix + 1 ∧ q.bit.val = 23) ∧
        (s.seq.bit.val = 0 → s.seq.pix + 1 = s.geom.n → q.phase = .postSel)) ∧
    (s.seq.phase = .postTx → s.txReady = true → ∃ t,
      exec .tokenRst { s with moves := s.moves.tail } = .next t ∧
      step s = .next { t with
        irqMask := false, txlog := t.txlog ++ [.irqMask false], seq := { s.seq with phase := .idle } }) ∧
    (s.seq.phase = .preTx ∨ s.seq.phase = .dataTx ∨ s.seq.phase = .postTx → s.txReady = false →
      step s = .next { s with moves := s.moves.tail })

/-- R105 and R60: the transmitter's move sets its flag and nothing of the block; the host's moves touch the port only. The form of
the host's moves (log 13) and of the schedule (log 1) is the model's choice. -/
def Obligations.OtherAgentsTouchOnlyTheirOwn : Prop :=
  ∀ s : State, (s.fault = .none ∨ s.fault = .cfgMismatch) →
    (s.nextMove = .transmitterReady → step s = .next { s with moves := s.moves.tail, txReady := true }) ∧
    (∀ w, s.nextMove = .present w → step s = .next { s with moves := s.moves.tail, port := some w }) ∧
    (s.nextMove = .withdraw → step s = .next { s with moves := s.moves.tail, port := none })

/-- R69: the frame, token by token, and its length (R108). -/
def Obligations.FrameIsGivenByThePositionFormula : Prop :=
  ∀ (b : BusParams) (pb : Memory) (n : Nat),
    (frame b pb n).length = 2 + 24 * n ∧
    (∀ t, t < 2 + 24 * n → (frame b pb n)[t]? = some (frameAt b pb n t))

/-- R109: with two different patterns the tokens of a frame determine every entry of the buffer. -/
def Obligations.FrameDeterminesTheBuffer : Prop :=
  ∀ (b : BusParams) (pb pb' : Memory) (n : Nat), b.wellFormed = true →
    frame b pb n = frame b pb' n → ∀ a, a < n → Memory.read pb a = Memory.read pb' a

/-- R107, R111, R112: while a SEND is in progress its log is the beginning of the frame of the unchanged buffer, and the step that
ends it leaves the whole frame between the mask events, `DATA`, the mask 0 and the flag 0. -/
def Obligations.SendEmitsExactlyTheFrame : Prop :=
  ∀ (s t : State) (before : List Event), s.Inv → s.nextMove.isConstruct = false → step s = .next t →
    (s.seq.phase = .idle → t.seq.phase ≠ .idle → FrameSoFar t s.txlog) ∧
    (s.seq.phase ≠ .idle → FrameSoFar s before →
      t.pb = s.pb ∧ t.geom = s.geom ∧ t.params = s.params ∧ t.st = s.st ∧
      t.bcs.eoq = s.bcs.eoq ∧ t.bcs.cont = s.bcs.cont ∧
      ((t.seq.phase ≠ .idle ∧ FrameSoFar t before) ∨
       (t.seq.phase = .idle ∧ t.txlog = before ++ .irqMask true :: (frameEvents s ++ [.irqMask false]) ∧
         t.bcs.ctas = .data ∧ t.irqMask = false ∧ t.txReady = false ∧ t.cmdReady = true)))

/-- R107, R112: under a transmitter that raises its flag before each turn of the block, a SEND taken from the port ends, and leaves
exactly the frame in the log and everything else of the block as it was. The schedule (log 1, 21) and the emptied port (log 13) are
the model's choices. -/
def Obligations.SendEndsWhenTheTransmitterKeepsUp : Prop :=
  ∀ (s : State) (w : CmdWord), s.Inv → s.cmdReady = true → s.port = some w → opField w = 3 →
    s.moves = fairRounds (24 * s.geom.n + 5) →
    ∃ t, Sys2Proof.core.run (2 * (24 * s.geom.n + 5)) s = .next t ∧
      t.seq.phase = .idle ∧
      t = { s with
        port := none, moves := [], txReady := false, seq := t.seq
        txlog := s.txlog ++ .irqMask true :: (frameEvents s ++ [.irqMask false]) }

/-- R113: if the transmitter never raises its flag again, a SEND in progress never ends, the mask stays 1 and no command is taken.
The model's choice: the hang is an infinite run of idle turns (log 11) on any list of moves (log 1, 21), not a stuck machine. -/
def Obligations.SendHangsWithoutTheTransmitter : Prop :=
  ∀ (k : Nat) (s : State), s.Inv → s.seq.phase ≠ .idle → s.txReady = false →
    (∀ m ∈ s.moves, m ≠ .transmitterReady ∧ m.isConstruct = false) →
    ∃ t, Sys2Proof.core.run k s = .next t ∧ t.seq.phase ≠ .idle ∧ t.irqMask = true ∧ t.cmdReady = false ∧
      t.txReady = false ∧ t.txlog = s.txlog ∧ t.pb = s.pb

/-! ### Rules of the whole machine -/

/-- The invariant of R34 holds after reset, and so do the two conditions on the log. -/
def Obligations.ResetMeetsTheInvariant : Prop :=
  State.reset.Inv ∧ replayMask false State.reset.txlog = some State.reset.irqMask ∧
    logTokensOk State.reset.params.bus State.reset.txlog = true

/-- R34: every step keeps the invariant. -/
def Obligations.EveryStepKeepsTheInvariant : Prop :=
  ∀ s t : State, s.Inv → step s = .next t → t.Inv

/-- R101: every token of every frame is emitted while `IRQ_MASK = 1`. -/
def Obligations.EveryTokenStandsUnderTheMask : Prop :=
  ∀ s t : State, s.Inv → replayMask false s.txlog = some s.irqMask → step s = .next t →
    replayMask false t.txlog = some t.irqMask

/-- R66: "Only three tokens ever occur". -/
def Obligations.OnlyThreeTokensEverOccur : Prop :=
  ∀ s t : State, s.Inv → logTokensOk s.params.bus s.txlog = true → step s = .next t →
    logTokensOk t.params.bus t.txlog = true

/-- R21, R23, R26, R152: no step but a construction writes the geometry, the status or the two flags without a value; no step at all
writes the parameters. -/
def Obligations.OnlyConstructionWritesTheGeometry : Prop :=
  ∀ s t : State, step s = .next t →
    t.params = s.params ∧
    (s.nextMove.isConstruct = false →
      t.geom = s.geom ∧ t.st = s.st ∧ t.bcs.eoq = s.bcs.eoq ∧ t.bcs.cont = s.bcs.cont)

/-- R24: `IRQ_MASK` is set to 1 by the step that accepts SEND and to 0 by its last step or by construction, and by nothing else. -/
def Obligations.OnlySendWritesTheMask : Prop :=
  ∀ s t : State, step s = .next t → t.irqMask ≠ s.irqMask →
    (s.nextMove.isConstruct = true ∧ t.irqMask = false) ∨
    (s.nextMove = .block ∧ s.cmdReady = true ∧ t.irqMask = true ∧ t.seq.phase = .preSel ∧
      ∃ w, s.port = some w ∧ opField w = 3) ∨
    (s.nextMove = .block ∧ s.seq.phase = .postTx ∧ t.irqMask = false ∧ t.seq.phase = .idle)

/-- R22, R40: the buffer is written by construction and by an accepted CLEAR, SET or SETXY only; so never during a SEND (R111). -/
def Obligations.OnlyBufferCommandsWriteTheBuffer : Prop :=
  ∀ s t : State, step s = .next t → t.pb ≠ s.pb →
    s.nextMove.isConstruct = true ∨
    (s.nextMove = .block ∧ s.cmdReady = true ∧ s.seq.phase = .idle ∧ ∃ w, s.port = some w ∧ opField w ≠ 3)

/-- R27, R105: `TX_READY` rises by the transmitter's move only and falls by a TXWORD of the block only. -/
def Obligations.ReadyFlagIsRaisedByTheTransmitterAndClearedByTxword : Prop :=
  ∀ s t : State, step s = .next t →
    (s.txReady = false → t.txReady = true → s.nextMove = .transmitterReady) ∧
    (s.txReady = true → t.txReady = false →
      s.nextMove = .block ∧ s.seq.phase ≠ .idle ∧
      (tokensOf t.txlog).length = (tokensOf s.txlog).length + 1)

/-- R60, R151: a command presented while `CMD_READY = 0` is not taken and has no effect; it stays on the port. -/
def Obligations.NoCommandIsTakenWhileNotReady : Prop :=
  ∀ (s : State) (w : Option CmdWord), s.cmdReady = false → s.nextMove = .block →
    step { s with port := w } =
      (match step s with
        | .next t    => .next { t with port := w }
        | .fault r   => .fault r
        | .refused r => .refused r)

/-- R73 with R66 and R104: a step other than a construction adds to the log the token that stands on the ports `TX_PROFILE` and
`TX_WORD` while `TX_VALID = 1`, and no other; `TX_VALID` and `TX_READY_CLR` are 1 only in steps of the block, and the flag is cleared
in exactly the steps with `TX_READY_CLR = 1`. Construction starts a new log (log 14). -/
def Obligations.TokenPortShowsWhatTheStepEmits : Prop :=
  ∀ s t : State, s.Inv → step s = .next t →
    (s.nextMove.isConstruct = false → tokensOf t.txlog = tokensOf s.txlog ++ s.txPort.toList) ∧
    (s.nextMove ≠ .block → s.txPort = none ∧ s.txReadyClr = false) ∧
    (s.txReadyClr = true → s.txReady = true ∧ t.txReady = false) ∧
    (s.txReadyClr = false → s.nextMove ≠ .transmitterReady → t.txReady = s.txReady)

/-- R23: no result depends on `BCS.EOQ` and `BCS.CONT`: a step from a state with other values in them does the same, and leaves them
as they are. -/
def Obligations.UnvaluedFlagsNeverMatter : Prop :=
  ∀ (s : State) (cont eoq : Bool),
    (s.nextMove.isConstruct = false →
      step (withUnvalued cont eoq s) = onNext (withUnvalued cont eoq) (step s)) ∧
    (s.nextMove.isConstruct = true → step (withUnvalued cont eoq s) = step s)

/-- R115: no value in the buffer and no answer of the table changes which step comes next, how many there are, or when a token is
emitted. -/
def Obligations.DataNeverChangesTheSequence : Prop :=
  ∀ (s t : State) (pb : Memory) (cct : CctTable), step s = .next t →
    ∃ t', step { s with pb := pb, params := { s.params with cct := cct } } = .next t' ∧
      t'.seq = t.seq ∧ t'.irqMask = t.irqMask ∧ t'.bcs = t.bcs ∧ t'.txReady = t.txReady ∧ t'.st = t.st ∧
      t'.geom = t.geom ∧ t'.port = t.port ∧ t'.moves = t.moves ∧ t'.fault.code = t.fault.code ∧
      t'.txlog.length = t.txlog.length
end

