-- ==== Sys2Proof/Laws/Decode.lean ====
section
/-!
SUPPORT. The fields of a packed command word (spec/30_encoding.md R61).
-/
namespace Sys2Proof

/-- The command word as a number. -/
theorem toNat_packCommand (op : BitVec 2) (a b : IntWord) (rgb : Rgb) :
    (packCommand op a b rgb).toNat = op.toNat * 2 ^ 88 + a.toNat * 2 ^ 56 + b.toNat * 2 ^ 24 + rgb.toNat := by
  have hr := rgb.isLt
  have hb := b.isLt
  have ha := a.isLt
  simp only [packCommand, BitVec.toNat_append]
  rw [← Nat.shiftLeft_add_eq_or_of_lt hr, ← Nat.shiftLeft_add_eq_or_of_lt hb, ← Nat.shiftLeft_add_eq_or_of_lt ha]
  simp only [Nat.shiftLeft_eq]
  omega

theorem toNat_opField (w : CmdWord) : (opField w).toNat = w.toNat / 2 ^ 88 := by
  have := w.isLt
  simp only [opField, BitVec.extractLsb'_toNat, Nat.shiftRight_eq_div_pow]
  omega

theorem toNat_aField (w : CmdWord) : (aField w).toNat = w.toNat / 2 ^ 56 % 2 ^ 32 := by
  simp only [aField, BitVec.extractLsb'_toNat, Nat.shiftRight_eq_div_pow]

theorem toNat_bField (w : CmdWord) : (bField w).toNat = w.toNat / 2 ^ 24 % 2 ^ 32 := by
  simp only [bField, BitVec.extractLsb'_toNat, Nat.shiftRight_eq_div_pow]

theorem toNat_rgbField (w : CmdWord) : (rgbField w).toNat = w.toNat % 2 ^ 24 := by
  simp [rgbField, BitVec.extractLsb'_toNat, Nat.shiftRight_eq_div_pow]

@[simp] theorem opField_packCommand (op : BitVec 2) (a b : IntWord) (rgb : Rgb) :
    opField (packCommand op a b rgb) = op := by
  apply BitVec.eq_of_toNat_eq
  have hr := rgb.isLt
  have hb := b.isLt
  have ha := a.isLt
  rw [toNat_opField, toNat_packCommand]
  omega

@[simp] theorem aField_packCommand (op : BitVec 2) (a b : IntWord) (rgb : Rgb) :
    aField (packCommand op a b rgb) = a := by
  apply BitVec.eq_of_toNat_eq
  have hr := rgb.isLt
  have hb := b.isLt
  have ha := a.isLt
  rw [toNat_aField, toNat_packCommand]
  omega

@[simp] theorem bField_packCommand (op : BitVec 2) (a b : IntWord) (rgb : Rgb) :
    bField (packCommand op a b rgb) = b := by
  apply BitVec.eq_of_toNat_eq
  have hr := rgb.isLt
  have hb := b.isLt
  rw [toNat_bField, toNat_packCommand]
  omega

@[simp] theorem rgbField_packCommand (op : BitVec 2) (a b : IntWord) (rgb : Rgb) :
    rgbField (packCommand op a b rgb) = rgb := by
  apply BitVec.eq_of_toNat_eq
  have hr := rgb.isLt
  rw [toNat_rgbField, toNat_packCommand]
  omega

/-- A number that fits its field is read back from it. -/
theorem toInt_ofInt_of_fits {v : Int} (h : fitsInt v = true) : (BitVec.ofInt 32 v).toInt = v := by
  simp only [fitsInt, Bool.and_eq_true, decide_eq_true_eq] at h
  rw [BitVec.toInt_ofInt, Int.bmod_eq_of_le] <;> omega

/-- A field read as a signed number fits. -/
theorem fitsInt_toInt (a : IntWord) : fitsInt a.toInt = true := by
  have h1 := a.toInt_lt
  have h2 := a.le_toInt
  simp only [fitsInt, Bool.and_eq_true, decide_eq_true_eq]
  omega

/-- What the decoder answers, by the opcode. -/
theorem decodeCommand_cases (w : CmdWord) :
    (opField w = 0#2 ∧ decodeCommand w = .clear) ∨
    (opField w = 1#2 ∧ decodeCommand w = .set (aField w).toInt (rgbField w)) ∨
    (opField w = 2#2 ∧ decodeCommand w = .setxy (aField w).toInt (bField w).toInt (rgbField w)) ∨
    (opField w = 3#2 ∧ decodeCommand w = .send) := by
  have h : opField w = 0#2 ∨ opField w = 1#2 ∨ opField w = 2#2 ∨ opField w = 3#2 := by
    generalize opField w = o
    revert o
    decide
  rcases h with h | h | h | h <;> simp [decodeCommand, h]

end Sys2Proof
end

