-- ==== Sys2Proof/Laws/Encoder.lean ====
section
/-!
SUPPORT. The tokens of a pixel and of a buffer by position (spec/30_encoding.md R68, R69).
-/
namespace Sys2Proof.Machine

@[simp] theorem enc24_length (b : BusParams) (v : Entry) : (enc24 b v).length = 24 := by simp [enc24]

theorem enc24_getElem? (b : BusParams) (v : Entry) {k : Nat} (h : k < 24) :
    (enc24 b v)[k]? = some ⟨.data, sym b (v.getLsbD (23 - k))⟩ := by
  simp [enc24, h]

theorem dataTokens_succ (b : BusParams) (pb : Memory) (n : Nat) :
    dataTokens b pb (n + 1) = dataTokens b pb n ++ enc24 b (Memory.read pb n) := by
  simp [dataTokens, List.range_succ]

@[simp] theorem dataTokens_length (b : BusParams) (pb : Memory) (n : Nat) : (dataTokens b pb n).length = 24 * n := by
  induction n with
  | zero => rfl
  | succ n ih => rw [dataTokens_succ, List.length_append, ih, enc24_length]; ring

theorem dataTokens_getElem? (b : BusParams) (pb : Memory) (n : Nat) {t : Nat} (h : t < 24 * n) :
    (dataTokens b pb n)[t]? = some ⟨.data, sym b ((Memory.read pb (t / 24)).getLsbD (23 - t % 24))⟩ := by
  induction n with
  | zero => omega
  | succ n ih =>
    rw [dataTokens_succ]
    by_cases hl : t < 24 * n
    · rw [List.getElem?_append_left (by rw [dataTokens_length]; exact hl), ih hl]
    · rw [List.getElem?_append_right (by rw [dataTokens_length]; omega), dataTokens_length,
        enc24_getElem? _ _ (by omega)]
      have e1 : t / 24 = n := by omega
      have e2 : t - 24 * n = t % 24 := by omega
      rw [e1, e2]

/-- The two symbols of legal parameters differ (R109). -/
theorem word1_ne_word0 {b : BusParams} (h : b.wellFormed = true) : b.word1 ≠ b.word0 := by
  simp only [BusParams.wellFormed, Bool.and_eq_true, decide_eq_true_eq] at h
  intro e
  exact h.2 (by simpa [BusParams.word1, BusParams.word0] using e)

end Sys2Proof.Machine
end

