-- ==== Sys2Proof/Laws/State.lean ====
section
/-!
SUPPORT. One lemma for each field and each update of State, so that no proof unfolds a record update.
-/
namespace Sys2Proof.Machine

/-! ### setIrqMask -/

@[simp] theorem State.setIrqMask_geom (s : State) (on : Bool) : (s.setIrqMask on).geom = s.geom := rfl
@[simp] theorem State.setIrqMask_pb (s : State) (on : Bool) : (s.setIrqMask on).pb = s.pb := rfl
@[simp] theorem State.setIrqMask_bcs (s : State) (on : Bool) : (s.setIrqMask on).bcs = s.bcs := rfl
@[simp] theorem State.setIrqMask_irqMask (s : State) (on : Bool) : (s.setIrqMask on).irqMask = on := rfl
@[simp] theorem State.setIrqMask_seq (s : State) (on : Bool) : (s.setIrqMask on).seq = s.seq := rfl
@[simp] theorem State.setIrqMask_st (s : State) (on : Bool) : (s.setIrqMask on).st = s.st := rfl
@[simp] theorem State.setIrqMask_fault (s : State) (on : Bool) : (s.setIrqMask on).fault = s.fault := rfl
@[simp] theorem State.setIrqMask_txReady (s : State) (on : Bool) : (s.setIrqMask on).txReady = s.txReady := rfl
@[simp] theorem State.setIrqMask_txlog (s : State) (on : Bool) : (s.setIrqMask on).txlog = s.txlog ++ [.irqMask on] := rfl
@[simp] theorem State.setIrqMask_pastLogs (s : State) (on : Bool) : (s.setIrqMask on).pastLogs = s.pastLogs := rfl
@[simp] theorem State.setIrqMask_port (s : State) (on : Bool) : (s.setIrqMask on).port = s.port := rfl
@[simp] theorem State.setIrqMask_moves (s : State) (on : Bool) : (s.setIrqMask on).moves = s.moves := rfl
@[simp] theorem State.setIrqMask_params (s : State) (on : Bool) : (s.setIrqMask on).params = s.params := rfl

/-! ### selectProfile -/

@[simp] theorem State.selectProfile_geom (s : State) (p : Profile) : (s.selectProfile p).geom = s.geom := rfl
@[simp] theorem State.selectProfile_pb (s : State) (p : Profile) : (s.selectProfile p).pb = s.pb := rfl
@[simp] theorem State.selectProfile_bcs (s : State) (p : Profile) : (s.selectProfile p).bcs = { s.bcs with ctas := p } := rfl
@[simp] theorem State.selectProfile_irqMask (s : State) (p : Profile) : (s.selectProfile p).irqMask = s.irqMask := rfl
@[simp] theorem State.selectProfile_seq (s : State) (p : Profile) : (s.selectProfile p).seq = s.seq := rfl
@[simp] theorem State.selectProfile_st (s : State) (p : Profile) : (s.selectProfile p).st = s.st := rfl
@[simp] theorem State.selectProfile_fault (s : State) (p : Profile) : (s.selectProfile p).fault = s.fault := rfl
@[simp] theorem State.selectProfile_txReady (s : State) (p : Profile) : (s.selectProfile p).txReady = s.txReady := rfl
@[simp] theorem State.selectProfile_txlog (s : State) (p : Profile) : (s.selectProfile p).txlog = s.txlog := rfl
@[simp] theorem State.selectProfile_pastLogs (s : State) (p : Profile) : (s.selectProfile p).pastLogs = s.pastLogs := rfl
@[simp] theorem State.selectProfile_port (s : State) (p : Profile) : (s.selectProfile p).port = s.port := rfl
@[simp] theorem State.selectProfile_moves (s : State) (p : Profile) : (s.selectProfile p).moves = s.moves := rfl
@[simp] theorem State.selectProfile_params (s : State) (p : Profile) : (s.selectProfile p).params = s.params := rfl

/-! ### raiseTxReady -/

@[simp] theorem State.raiseTxReady_geom (s : State) : (s.raiseTxReady).geom = s.geom := rfl
@[simp] theorem State.raiseTxReady_pb (s : State) : (s.raiseTxReady).pb = s.pb := rfl
@[simp] theorem State.raiseTxReady_bcs (s : State) : (s.raiseTxReady).bcs = s.bcs := rfl
@[simp] theorem State.raiseTxReady_irqMask (s : State) : (s.raiseTxReady).irqMask = s.irqMask := rfl
@[simp] theorem State.raiseTxReady_seq (s : State) : (s.raiseTxReady).seq = s.seq := rfl
@[simp] theorem State.raiseTxReady_st (s : State) : (s.raiseTxReady).st = s.st := rfl
@[simp] theorem State.raiseTxReady_fault (s : State) : (s.raiseTxReady).fault = s.fault := rfl
@[simp] theorem State.raiseTxReady_txReady (s : State) : (s.raiseTxReady).txReady = true := rfl
@[simp] theorem State.raiseTxReady_txlog (s : State) : (s.raiseTxReady).txlog = s.txlog := rfl
@[simp] theorem State.raiseTxReady_pastLogs (s : State) : (s.raiseTxReady).pastLogs = s.pastLogs := rfl
@[simp] theorem State.raiseTxReady_port (s : State) : (s.raiseTxReady).port = s.port := rfl
@[simp] theorem State.raiseTxReady_moves (s : State) : (s.raiseTxReady).moves = s.moves := rfl
@[simp] theorem State.raiseTxReady_params (s : State) : (s.raiseTxReady).params = s.params := rfl

/-! ### pbClear -/

@[simp] theorem State.pbClear_geom (s : State) : (s.pbClear).geom = s.geom := rfl
@[simp] theorem State.pbClear_pb (s : State) : (s.pbClear).pb = [] := rfl
@[simp] theorem State.pbClear_bcs (s : State) : (s.pbClear).bcs = s.bcs := rfl
@[simp] theorem State.pbClear_irqMask (s : State) : (s.pbClear).irqMask = s.irqMask := rfl
@[simp] theorem State.pbClear_seq (s : State) : (s.pbClear).seq = s.seq := rfl
@[simp] theorem State.pbClear_st (s : State) : (s.pbClear).st = s.st := rfl
@[simp] theorem State.pbClear_fault (s : State) : (s.pbClear).fault = s.fault := rfl
@[simp] theorem State.pbClear_txReady (s : State) : (s.pbClear).txReady = s.txReady := rfl
@[simp] theorem State.pbClear_txlog (s : State) : (s.pbClear).txlog = s.txlog := rfl
@[simp] theorem State.pbClear_pastLogs (s : State) : (s.pbClear).pastLogs = s.pastLogs := rfl
@[simp] theorem State.pbClear_port (s : State) : (s.pbClear).port = s.port := rfl
@[simp] theorem State.pbClear_moves (s : State) : (s.pbClear).moves = s.moves := rfl
@[simp] theorem State.pbClear_params (s : State) : (s.pbClear).params = s.params := rfl

/-! ### raise -/

@[simp] theorem State.raise_geom (s : State) (f : FaultRecord) : (s.raise f).geom = s.geom := rfl
@[simp] theorem State.raise_pb (s : State) (f : FaultRecord) : (s.raise f).pb = s.pb := rfl
@[simp] theorem State.raise_bcs (s : State) (f : FaultRecord) : (s.raise f).bcs = s.bcs := rfl
@[simp] theorem State.raise_irqMask (s : State) (f : FaultRecord) : (s.raise f).irqMask = s.irqMask := rfl
@[simp] theorem State.raise_seq (s : State) (f : FaultRecord) : (s.raise f).seq = s.seq := rfl
@[simp] theorem State.raise_st (s : State) (f : FaultRecord) : (s.raise f).st = s.st := rfl
@[simp] theorem State.raise_fault (s : State) (f : FaultRecord) : (s.raise f).fault = f := rfl
@[simp] theorem State.raise_txReady (s : State) (f : FaultRecord) : (s.raise f).txReady = s.txReady := rfl
@[simp] theorem State.raise_txlog (s : State) (f : FaultRecord) : (s.raise f).txlog = s.txlog := rfl
@[simp] theorem State.raise_pastLogs (s : State) (f : FaultRecord) : (s.raise f).pastLogs = s.pastLogs := rfl
@[simp] theorem State.raise_port (s : State) (f : FaultRecord) : (s.raise f).port = s.port := rfl
@[simp] theorem State.raise_moves (s : State) (f : FaultRecord) : (s.raise f).moves = s.moves := rfl
@[simp] theorem State.raise_params (s : State) (f : FaultRecord) : (s.raise f).params = s.params := rfl

/-! ### emit -/

@[simp] theorem State.emit_geom (s : State) (w : BusWord) : (s.emit w).geom = s.geom := rfl
@[simp] theorem State.emit_pb (s : State) (w : BusWord) : (s.emit w).pb = s.pb := rfl
@[simp] theorem State.emit_bcs (s : State) (w : BusWord) : (s.emit w).bcs = s.bcs := rfl
@[simp] theorem State.emit_irqMask (s : State) (w : BusWord) : (s.emit w).irqMask = s.irqMask := rfl
@[simp] theorem State.emit_seq (s : State) (w : BusWord) : (s.emit w).seq = s.seq := rfl
@[simp] theorem State.emit_st (s : State) (w : BusWord) : (s.emit w).st = s.st := rfl
@[simp] theorem State.emit_fault (s : State) (w : BusWord) : (s.emit w).fault = s.fault := rfl
@[simp] theorem State.emit_txReady (s : State) (w : BusWord) : (s.emit w).txReady = false := rfl
@[simp] theorem State.emit_txlog (s : State) (w : BusWord) : (s.emit w).txlog = s.txlog ++ [.token ⟨s.bcs.ctas, w⟩] := rfl
@[simp] theorem State.emit_pastLogs (s : State) (w : BusWord) : (s.emit w).pastLogs = s.pastLogs := rfl
@[simp] theorem State.emit_port (s : State) (w : BusWord) : (s.emit w).port = s.port := rfl
@[simp] theorem State.emit_moves (s : State) (w : BusWord) : (s.emit w).moves = s.moves := rfl
@[simp] theorem State.emit_params (s : State) (w : BusWord) : (s.emit w).params = s.params := rfl

/-! ### presentCommand -/

@[simp] theorem State.presentCommand_geom (s : State) (w : CmdWord) : (s.presentCommand w).geom = s.geom := rfl
@[simp] theorem State.presentCommand_pb (s : State) (w : CmdWord) : (s.presentCommand w).pb = s.pb := rfl
@[simp] theorem State.presentCommand_bcs (s : State) (w : CmdWord) : (s.presentCommand w).bcs = s.bcs := rfl
@[simp] theorem State.presentCommand_irqMask (s : State) (w : CmdWord) : (s.presentCommand w).irqMask = s.irqMask := rfl
@[simp] theorem State.presentCommand_seq (s : State) (w : CmdWord) : (s.presentCommand w).seq = s.seq := rfl
@[simp] theorem State.presentCommand_st (s : State) (w : CmdWord) : (s.presentCommand w).st = s.st := rfl
@[simp] theorem State.presentCommand_fault (s : State) (w : CmdWord) : (s.presentCommand w).fault = s.fault := rfl
@[simp] theorem State.presentCommand_txReady (s : State) (w : CmdWord) : (s.presentCommand w).txReady = s.txReady := rfl
@[simp] theorem State.presentCommand_txlog (s : State) (w : CmdWord) : (s.presentCommand w).txlog = s.txlog := rfl
@[simp] theorem State.presentCommand_pastLogs (s : State) (w : CmdWord) : (s.presentCommand w).pastLogs = s.pastLogs := rfl
@[simp] theorem State.presentCommand_port (s : State) (w : CmdWord) : (s.presentCommand w).port = some w := rfl
@[simp] theorem State.presentCommand_moves (s : State) (w : CmdWord) : (s.presentCommand w).moves = s.moves := rfl
@[simp] theorem State.presentCommand_params (s : State) (w : CmdWord) : (s.presentCommand w).params = s.params := rfl

/-! ### clearPort -/

@[simp] theorem State.clearPort_geom (s : State) : (s.clearPort).geom = s.geom := rfl
@[simp] theorem State.clearPort_pb (s : State) : (s.clearPort).pb = s.pb := rfl
@[simp] theorem State.clearPort_bcs (s : State) : (s.clearPort).bcs = s.bcs := rfl
@[simp] theorem State.clearPort_irqMask (s : State) : (s.clearPort).irqMask = s.irqMask := rfl
@[simp] theorem State.clearPort_seq (s : State) : (s.clearPort).seq = s.seq := rfl
@[simp] theorem State.clearPort_st (s : State) : (s.clearPort).st = s.st := rfl
@[simp] theorem State.clearPort_fault (s : State) : (s.clearPort).fault = s.fault := rfl
@[simp] theorem State.clearPort_txReady (s : State) : (s.clearPort).txReady = s.txReady := rfl
@[simp] theorem State.clearPort_txlog (s : State) : (s.clearPort).txlog = s.txlog := rfl
@[simp] theorem State.clearPort_pastLogs (s : State) : (s.clearPort).pastLogs = s.pastLogs := rfl
@[simp] theorem State.clearPort_port (s : State) : (s.clearPort).port = none := rfl
@[simp] theorem State.clearPort_moves (s : State) : (s.clearPort).moves = s.moves := rfl
@[simp] theorem State.clearPort_params (s : State) : (s.clearPort).params = s.params := rfl

/-! ### popMove -/

@[simp] theorem State.popMove_geom (s : State) : (s.popMove).geom = s.geom := rfl
@[simp] theorem State.popMove_pb (s : State) : (s.popMove).pb = s.pb := rfl
@[simp] theorem State.popMove_bcs (s : State) : (s.popMove).bcs = s.bcs := rfl
@[simp] theorem State.popMove_irqMask (s : State) : (s.popMove).irqMask = s.irqMask := rfl
@[simp] theorem State.popMove_seq (s : State) : (s.popMove).seq = s.seq := rfl
@[simp] theorem State.popMove_st (s : State) : (s.popMove).st = s.st := rfl
@[simp] theorem State.popMove_fault (s : State) : (s.popMove).fault = s.fault := rfl
@[simp] theorem State.popMove_txReady (s : State) : (s.popMove).txReady = s.txReady := rfl
@[simp] theorem State.popMove_txlog (s : State) : (s.popMove).txlog = s.txlog := rfl
@[simp] theorem State.popMove_pastLogs (s : State) : (s.popMove).pastLogs = s.pastLogs := rfl
@[simp] theorem State.popMove_port (s : State) : (s.popMove).port = s.port := rfl
@[simp] theorem State.popMove_moves (s : State) : (s.popMove).moves = s.moves.tail := rfl
@[simp] theorem State.popMove_params (s : State) : (s.popMove).params = s.params := rfl

/-! ### selectReset -/

@[simp] theorem State.selectReset_geom (s : State) : s.selectReset.geom = s.geom := rfl
@[simp] theorem State.selectReset_pb (s : State) : s.selectReset.pb = s.pb := rfl
@[simp] theorem State.selectReset_bcs (s : State) : s.selectReset.bcs = { s.bcs with ctas := .reset } := rfl
@[simp] theorem State.selectReset_irqMask (s : State) : s.selectReset.irqMask = s.irqMask := rfl
@[simp] theorem State.selectReset_seq (s : State) : s.selectReset.seq = { s.seq with phase := if s.seq.phase = .preSel then .preTx else .postTx } := rfl
@[simp] theorem State.selectReset_st (s : State) : s.selectReset.st = s.st := rfl
@[simp] theorem State.selectReset_fault (s : State) : s.selectReset.fault = s.fault := rfl
@[simp] theorem State.selectReset_txReady (s : State) : s.selectReset.txReady = s.txReady := rfl
@[simp] theorem State.selectReset_txlog (s : State) : s.selectReset.txlog = s.txlog := rfl
@[simp] theorem State.selectReset_pastLogs (s : State) : s.selectReset.pastLogs = s.pastLogs := rfl
@[simp] theorem State.selectReset_port (s : State) : s.selectReset.port = s.port := rfl
@[simp] theorem State.selectReset_moves (s : State) : s.selectReset.moves = s.moves := rfl
@[simp] theorem State.selectReset_params (s : State) : s.selectReset.params = s.params := rfl

end Sys2Proof.Machine
end

