-- ==== Sys2Proof/Laws/Memory.lean ====
section
/-!
SUPPORT. The pixel buffer: read after write, and the canonical form every operation keeps (log 12).
-/
namespace Sys2Proof.Machine

@[simp] theorem Memory.read_nil (a : Nat) : Memory.read [] a = 0#24 := rfl

@[simp] theorem Memory.wf_nil : Memory.wf [] = true := rfl

@[simp] theorem Memory.within_nil (n : Nat) : Memory.within [] n = true := rfl

@[simp] theorem Memory.above_nil (a : Nat) : Memory.above [] a = true := rfl

theorem Memory.read_cons (c : Nat × Entry) (m : Memory) (a : Nat) :
    Memory.read (c :: m) a = if a = c.1 then c.2 else Memory.read m a := rfl

@[simp] theorem Memory.wf_cons (c : Nat × Entry) (m : Memory) :
    Memory.wf (c :: m) = true ↔ Memory.above m c.1 = true ∧ c.2 ≠ 0#24 ∧ Memory.wf m = true := by
  simp [Memory.wf, and_assoc]

@[simp] theorem Memory.above_cons (c : Nat × Entry) (m : Memory) (a : Nat) :
    Memory.above (c :: m) a = true ↔ a < c.1 ∧ Memory.above m a = true := by
  simp [Memory.above]

@[simp] theorem Memory.within_cons (c : Nat × Entry) (m : Memory) (n : Nat) :
    Memory.within (c :: m) n = true ↔ c.1 < n ∧ Memory.within m n = true := by
  simp [Memory.within]

theorem Memory.above_of_le {m : Memory} {a b : Nat} (h : Memory.above m b = true) (hab : a ≤ b) :
    Memory.above m a = true := by
  simp only [Memory.above, List.all_eq_true, decide_eq_true_eq] at h ⊢
  intro c hc
  exact lt_of_le_of_lt hab (h c hc)

/-- A slot at or below every listed one holds 0. -/
theorem Memory.read_eq_zero_of_above {m : Memory} {a b : Nat} (h : Memory.above m b = true) (hab : a ≤ b) :
    Memory.read m a = 0#24 := by
  induction m with
  | nil => rfl
  | cons c m ih =>
    rw [Memory.above_cons] at h
    rw [Memory.read_cons, if_neg (by omega), ih h.2]

/-- A slot outside `0 .. n - 1` is not listed. -/
theorem Memory.read_eq_zero_of_within {m : Memory} {n a : Nat} (h : Memory.within m n = true) (ha : n ≤ a) :
    Memory.read m a = 0#24 := by
  induction m with
  | nil => rfl
  | cons c m ih =>
    rw [Memory.within_cons] at h
    rw [Memory.read_cons, if_neg (by omega), ih h.2]

theorem Memory.above_write {m : Memory} {a b : Nat} (v : Entry) (h : Memory.above m b = true) (hb : b < a) :
    Memory.above (Memory.write m a v) b = true := by
  induction m with
  | nil => simp only [Memory.write]; split <;> simp [hb]
  | cons c m ih =>
    rw [Memory.above_cons] at h
    simp only [Memory.write]
    split_ifs <;> simp [hb, h, ih h.2]

/-- A write keeps the canonical form. -/
theorem Memory.wf_write {m : Memory} (a : Nat) (v : Entry) (h : Memory.wf m = true) :
    Memory.wf (Memory.write m a v) = true := by
  induction m with
  | nil => by_cases hv : v = 0#24 <;> simp [Memory.write, hv]
  | cons c m ih =>
    have h' := h
    rw [Memory.wf_cons] at h
    obtain ⟨hab, hc, hm⟩ := h
    simp only [Memory.write]
    split_ifs with h1 h2 h3 h4
    · exact h'
    · simp only [Memory.wf_cons, Memory.above_cons]
      exact ⟨⟨h1, Memory.above_of_le hab h1.le⟩, h2, hab, hc, hm⟩
    · exact hm
    · subst h3
      exact (Memory.wf_cons _ _).mpr ⟨hab, h4, hm⟩
    · have hlt : c.1 < a := by omega
      exact (Memory.wf_cons _ _).mpr ⟨Memory.above_write v hab hlt, hc, ih hm⟩

/-- A write inside the buffer stays inside. -/
theorem Memory.within_write {m : Memory} {a n : Nat} (v : Entry) (h : Memory.within m n = true) (ha : a < n) :
    Memory.within (Memory.write m a v) n = true := by
  induction m with
  | nil => simp only [Memory.write]; split <;> simp [ha]
  | cons c m ih =>
    rw [Memory.within_cons] at h
    simp only [Memory.write]
    split_ifs <;> simp [ha, h, ih h.2]

/-- Read after write, in the canonical form. -/
theorem Memory.read_write {m : Memory} (h : Memory.wf m = true) (a : Nat) (v : Entry) (b : Nat) :
    Memory.read (Memory.write m a v) b = if b = a then v else Memory.read m b := by
  induction m with
  | nil =>
    simp only [Memory.write]
    split_ifs with h1 h2 h2 <;> simp_all [Memory.read_cons]
  | cons c m ih =>
    rw [Memory.wf_cons] at h
    obtain ⟨hab, -, hm⟩ := h
    have low : ∀ x, x ≤ c.1 → Memory.read m x = 0#24 := fun x hx => Memory.read_eq_zero_of_above hab hx
    rcases lt_trichotomy a c.1 with hlt | heq | hgt
    · by_cases hv : v = 0#24
      · by_cases hb : b = a <;> simp_all [Memory.write, Memory.read_cons, hlt.ne, hlt.le]
      · simp [Memory.write, Memory.read_cons, hlt, hv]
    · by_cases hv : v = 0#24 <;> by_cases hb : b = a <;> simp_all [Memory.write, Memory.read_cons]
    · have hne : ¬ a < c.1 ∧ a ≠ c.1 := by omega
      by_cases hb : b = c.1
      · have hba : b ≠ a := by omega
        simp [Memory.write, Memory.read_cons, hne, hb, hgt.ne]
      · simp [Memory.write, Memory.read_cons, hne, hb, ih hm]

end Sys2Proof.Machine
end

