-- ==== Sys2Proof/Laws/Operands.lean ====
section
/-!
SUPPORT. The address translator by row and column, and the packed channels as numbers.
-/
namespace Sys2Proof.Machine

@[simp] theorem xlate_of_not_alt {g : Geom} (h : g.alt = false) (i : Nat) : xlate g i = i := by
  simp [xlate, h]

/-- XLATE on an index given by its row and column. -/
theorem xlate_row_col {g : Geom} (h : g.alt = true) {row col : Nat} (hc : col < g.w) :
    xlate g (row * g.w + col) = row * g.w + if row % 2 = 1 then g.w - 1 - col else col := by
  have hw : 0 < g.w := by omega
  have hdiv : (row * g.w + col) / g.w = row := by
    rw [Nat.add_comm, Nat.add_mul_div_right _ _ hw, Nat.div_eq_of_lt hc, Nat.zero_add]
  have hmod : (row * g.w + col) % g.w = col := by
    rw [Nat.add_comm, Nat.add_mul_mod_self_right, Nat.mod_eq_of_lt hc]
  simp only [xlate, h, if_true, hdiv, hmod]

/-- Every index is a row and a column. -/
theorem index_row_col {w : Nat} (hw : 0 < w) (i : Nat) : ∃ row col, col < w ∧ i = row * w + col :=
  ⟨i / w, i % w, Nat.mod_lt _ hw, by rw [Nat.mul_comm]; exact (Nat.div_add_mod i w).symm⟩

/-- A slot below `N` by its row and column. -/
theorem slot_row_col {g : Geom} {i : Nat} (h : i < g.n) :
    ∃ row col, row < g.h ∧ col < g.w ∧ i = row * g.w + col ∧ i / g.w = row ∧ i % g.w = col := by
  have hw : 0 < g.w := by
    rcases Nat.eq_zero_or_pos g.w with h0 | h0
    · simp [Geom.n, h0] at h
    · exact h0
  refine ⟨i / g.w, i % g.w, ?_, Nat.mod_lt _ hw, ?_, rfl, rfl⟩
  · rw [Nat.div_lt_iff_lt_mul hw, Nat.mul_comm]; exact h
  · rw [Nat.mul_comm]; exact (Nat.div_add_mod i g.w).symm

/-- A row and a column inside the geometry give a slot below `N`. -/
theorem row_col_lt {row col w h : Nat} (hr : row < h) (hc : col < w) : row * w + col < w * h := by
  have : (row + 1) * w ≤ h * w := Nat.mul_le_mul_right _ hr
  rw [Nat.add_mul, Nat.one_mul] at this
  rw [Nat.mul_comm w h]
  omega

/-- XLATE stays inside the buffer. -/
theorem xlate_lt {g : Geom} {i : Nat} (hi : i < g.n) : xlate g i < g.n := by
  cases ha : g.alt with
  | false => simp [ha, hi]
  | true =>
    obtain ⟨row, col, hr, hc, rfl, -⟩ := slot_row_col hi
    rw [xlate_row_col ha hc]
    refine row_col_lt hr ?_
    split_ifs <;> omega

/-- XLATE of the index `N`. -/
theorem xlate_n {g : Geom} (ha : g.alt = true) (hw : 0 < g.w) :
    xlate g g.n = g.n + if g.h % 2 = 1 then g.w - 1 else 0 := by
  have : g.n = g.h * g.w + 0 := by simp [Geom.n, Nat.mul_comm]
  rw [this, xlate_row_col ha hw]
  simp

/-- The index `N` names no slot. -/
theorem le_xlate_n (g : Geom) : g.n ≤ xlate g g.n := by
  cases ha : g.alt
  · simp [ha]
  · rcases Nat.eq_zero_or_pos g.w with h0 | h0
    · simp [Geom.n, h0]
    · rw [xlate_n ha h0]; omega

theorem indexAccepted_iff (g : Geom) (index : Int) :
    indexAccepted g index = true ↔ 0 ≤ index ∧ index ≤ (g.n : Int) := by
  simp [indexAccepted]

theorem coordsAccepted_iff (g : Geom) (x y : Int) :
    coordsAccepted g x y = true ↔ 0 ≤ x ∧ x ≤ (g.w : Int) ∧ 0 ≤ y ∧ y ≤ (g.h : Int) := by
  simp [coordsAccepted, and_assoc]

theorem geometryOk_iff (w h : Nat) :
    geometryOk w h = true ↔ 1 ≤ w ∧ 1 ≤ h ∧ (w + 1) * (h + 1) ≤ Config.geometryBound := by
  simp [geometryOk, and_assoc]

/-- `{hi, mid, lo}` as a number. -/
theorem toNat_packChannels (hi mid lo : Channel) :
    (packChannels hi mid lo).toNat = hi.toNat * 65536 + mid.toNat * 256 + lo.toNat := by
  simp only [packChannels, BitVec.toNat_append]
  rw [← Nat.shiftLeft_add_eq_or_of_lt lo.isLt, ← Nat.shiftLeft_add_eq_or_of_lt mid.isLt]
  simp only [Nat.shiftLeft_eq]
  omega

end Sys2Proof.Machine
end

