-- ==== Sys2Proof/Laws/Ops.lean ====
section
/-!
SUPPORT. For each shared operation, once, everything it can do.
-/
namespace Sys2Proof.Machine

/-- `PB[a] <- v` stores or raises (spec/00_scope.md R13). -/
theorem State.pbWrite_cases (s : State) (a : Nat) (v : Entry) :
    (a < s.geom.n ∧ s.pbWrite a v = { s with pb := Memory.write s.pb a v }) ∨
    (s.geom.n ≤ a ∧ s.pbWrite a v = s.raise (.oobWrite a v)) := by
  by_cases h : a < s.geom.n
  · exact .inl ⟨h, if_pos h⟩
  · exact .inr ⟨by omega, if_neg h⟩

/-- SET drops, stores or raises (spec/41_buffer_commands.md R92). -/
theorem State.setLinear_cases (s : State) (index : Int) (rgb : Rgb) :
    (¬ (0 ≤ index ∧ index ≤ (s.geom.n : Int)) ∧ s.setLinear index rgb = s) ∨
    (0 ≤ index ∧ index ≤ (s.geom.n : Int) ∧
      s.setLinear index rgb = s.pbWrite (xlate s.geom index.toNat) (correct s.params.cct rgb)) := by
  by_cases h : indexAccepted s.geom index = true
  · have h' := (indexAccepted_iff _ _).mp h
    exact .inr ⟨h'.1, h'.2, if_pos h⟩
  · exact .inl ⟨fun h' => h ((indexAccepted_iff _ _).mpr h'), if_neg h⟩

/-- SET, with the translator's answer worked out: nothing, one slot below `N`, or the fault record. -/
theorem State.setLinear_slots (s : State) (i : Int) (rgb : Rgb) :
    (¬ (0 ≤ i ∧ i ≤ (s.geom.n : Int)) ∧ s.setLinear i rgb = s) ∨
    (0 ≤ i ∧ i < s.geom.n ∧ xlate s.geom i.toNat < s.geom.n ∧
      s.setLinear i rgb =
        { s with pb := Memory.write s.pb (xlate s.geom i.toNat) (correct s.params.cct rgb) }) ∨
    (i = s.geom.n ∧
      s.setLinear i rgb = { s with fault := .oobWrite (xlate s.geom s.geom.n) (correct s.params.cct rgb) }) := by
  rcases s.setLinear_cases i rgb with h | ⟨h0, h1, h2⟩
  · exact .inl h
  · by_cases hn : i = s.geom.n
    · refine .inr (.inr ⟨hn, ?_⟩)
      rw [h2, hn, Int.toNat_natCast, State.pbWrite, if_neg (Nat.not_lt.mpr (le_xlate_n s.geom))]
      rfl
    · have hx := xlate_lt (g := s.geom) (i := i.toNat) (by omega)
      exact .inr (.inl ⟨h0, by omega, hx, by rw [h2, State.pbWrite, if_pos hx]⟩)

/-- What SET leaves alone. -/
theorem State.setLinear_frame (s : State) (i : Int) (rgb : Rgb) :
    s.setLinear i rgb = { s with pb := (s.setLinear i rgb).pb, fault := (s.setLinear i rgb).fault } := by
  rcases s.setLinear_slots i rgb with ⟨-, e⟩ | ⟨-, -, -, e⟩ | ⟨-, e⟩ <;> rw [e]

/-! ### Every operation on the buffer keeps the canonical form -/

theorem State.pbWrite_wf {s : State} (a : Nat) (v : Entry) (h : Memory.wf s.pb = true) :
    Memory.wf (s.pbWrite a v).pb = true := by
  rcases s.pbWrite_cases a v with ⟨-, e⟩ | ⟨-, e⟩ <;> rw [e]
  · exact Memory.wf_write a v h
  · exact h

theorem State.pbWrite_within {s : State} (a : Nat) (v : Entry) (h : Memory.within s.pb s.geom.n = true) :
    Memory.within (s.pbWrite a v).pb s.geom.n = true := by
  rcases s.pbWrite_cases a v with ⟨ha, e⟩ | ⟨-, e⟩ <;> rw [e]
  · exact Memory.within_write v h ha
  · exact h

theorem State.setLinear_wf {s : State} (i : Int) (rgb : Rgb) (h : Memory.wf s.pb = true) :
    Memory.wf (s.setLinear i rgb).pb = true := by
  rcases s.setLinear_cases i rgb with ⟨-, e⟩ | ⟨-, -, e⟩ <;> rw [e]
  · exact h
  · exact State.pbWrite_wf _ _ h

theorem State.pbClear_wf (s : State) : Memory.wf s.pbClear.pb = true := rfl

theorem State.constructed_wf (s : State) (p : Straps) : Memory.wf (s.constructed p).pb = true := rfl

theorem reset_wf : Memory.wf State.reset.pb = true := rfl

/-- TXWORD waits or emits (spec/42_send.md R104). -/
theorem State.txWord_cases (s : State) (w : BusWord) :
    (s.txReady = false ∧ s.txWord w = s) ∨ (s.txReady = true ∧ s.txWord w = s.emit w) := by
  cases h : s.txReady <;> simp [State.txWord, h]

/-- TXRESET waits under the reset profile, or emits the zero word and is back under `DATA` (R103). -/
theorem State.txReset_cases (s : State) :
    (s.txReady = false ∧ s.txReset = s.selectProfile .reset) ∨
    (s.txReady = true ∧
      s.txReset = ((s.selectProfile .reset).emit s.params.bus.resetWord).selectProfile .data) := by
  cases h : s.txReady <;> simp [State.txReset, State.txWord, h]

theorem State.txWord_ready {s : State} (h : s.txReady = true) (w : BusWord) : s.txWord w = s.emit w := if_pos h

theorem State.txWord_wait {s : State} (h : s.txReady = false) (w : BusWord) : s.txWord w = s :=
  if_neg (by rw [h]; decide)

theorem State.txReset_ready {s : State} (h : s.txReady = true) :
    s.txReset = ((s.selectProfile .reset).emit s.params.bus.resetWord).selectProfile .data := by
  rcases s.txReset_cases with ⟨h', -⟩ | ⟨-, h'⟩
  · rw [h] at h'; cases h'
  · exact h'

theorem State.txReset_wait {s : State} (h : s.txReady = false) : s.txReset = s.selectProfile .reset := by
  rcases s.txReset_cases with ⟨-, h'⟩ | ⟨h', -⟩
  · exact h'
  · rw [h] at h'; cases h'

/-- A construction is refused or leaves the constructed state (spec/70_reset_and_hazards.md R140). -/
theorem construct_next {p : Straps} {s t : State} (h : construct p s = .next t) :
    geometryOk (geomOf p).w (geomOf p).h = true ∧ t = s.constructed p := by
  unfold construct at h
  split at h
  · exact ⟨‹_›, by injection h with h; exact h.symm⟩
  · cases h

/-- The compatibility check against the number of R143. -/
theorem rangeMatches_iff (p : Straps) : rangeMatches p = true ↔ p.cctRange = 0x100 := decide_eq_true_iff

/-- The clamp as the signed maximum (R141). -/
theorem clampDim_eq (v : IntWord) : (clampDim v : Int) = max 1 v.toInt := by
  simp only [clampDim, Config.minDim]
  omega

theorem one_le_clampDim (v : IntWord) : 1 ≤ clampDim v := by
  have := clampDim_eq v
  omega

/-- The state at reset is what CONSTRUCT leaves with the default ports: two writings of R33 agree. -/
theorem reset_eq_constructed :
    State.reset = { State.reset.constructed Config.defaultStraps with pastLogs := [] } := by
  rfl

end Sys2Proof.Machine
end

