-- ==== Sys2Proof/Laws/PerInstr.lean ====
section
/-!
SUPPORT. What every instruction's encoding shows, one lemma for each constructor (spec/30_encoding.md R62, R66).
-/
namespace Sys2Proof.Laws.Opcode

/-- The opcode of a command row; a token row has none (R62). -/
def code : Instr → Option (BitVec 2)
  | .clear       => some 0
  | .set _ _     => some 1
  | .setxy _ _ _ => some 2
  | .send        => some 3
  | .tokenRst    => none
  | .tokenT0     => none
  | .tokenT1     => none

/-- A command's word carries its opcode; a token's profile is `RESET` for the row `TOKEN.RST` only. -/
def Statement (i : Instr) : Prop :=
  ∀ b : BusParams, match encode b i with
    | .command w => code i = some (opField w) ∧ i.isCommand = true
    | .token t   => code i = none ∧ i.isCommand = false ∧ (t.profile = .reset ↔ i = .tokenRst)

theorem clear : Statement .clear := fun _ => ⟨by rw [opField_packCommand]; rfl, rfl⟩

theorem set (index : Int) (rgb : Rgb) : Statement (.set index rgb) :=
  fun _ => ⟨by rw [opField_packCommand]; rfl, rfl⟩

theorem setxy (x y : Int) (rgb : Rgb) : Statement (.setxy x y rgb) :=
  fun _ => ⟨by rw [opField_packCommand]; rfl, rfl⟩

theorem send : Statement .send := fun _ => ⟨by rw [opField_packCommand]; rfl, rfl⟩

theorem tokenRst : Statement .tokenRst := fun _ => ⟨rfl, rfl, by simp [tokenRstOf]⟩

theorem tokenT0 : Statement .tokenT0 := fun _ => ⟨rfl, rfl, by simp [tokenT0Of]⟩

theorem tokenT1 : Statement .tokenT1 := fun _ => ⟨rfl, rfl, by simp [tokenT1Of]⟩

end Sys2Proof.Laws.Opcode
end

