-- ==== Sys2Proof/Laws/Turn.lean ====
section
/-!
SUPPORT. Once, everything a step can do.
-/
namespace Sys2Proof.Machine

theorem State.cmdReady_iff (s : State) :
    s.cmdReady = true ↔ s.st = .run ∧ s.seq.phase = .idle ∧ s.fault = .none := by
  simp [State.cmdReady, and_assoc]

/-- What a command does, by the opcode (spec/30_encoding.md R62). -/
theorem exec_decodeCommand_cases (w : CmdWord) (s : State) :
    ∃ t, exec (decodeCommand w) s = .next t ∧
      ((opField w = 0#2 ∧ t = s.pbClear) ∨
       (opField w = 1#2 ∧ t = s.setLinear (aField w).toInt (rgbField w)) ∨
       (opField w = 2#2 ∧ t = s ∧ coordsAccepted s.geom (aField w).toInt (bField w).toInt = false) ∨
       (opField w = 2#2 ∧ coordsAccepted s.geom (aField w).toInt (bField w).toInt = true ∧
         t = s.setLinear (lin2d s.geom (aField w).toInt.toNat (bField w).toInt.toNat : Nat) (rgbField w)) ∨
       (opField w = 3#2 ∧ t = { s.setIrqMask true with seq := { s.seq with phase := .preSel } })) := by
  rcases decodeCommand_cases w with ⟨ho, hd⟩ | ⟨ho, hd⟩ | ⟨ho, hd⟩ | ⟨ho, hd⟩ <;> rw [hd]
  · exact ⟨_, rfl, .inl ⟨ho, rfl⟩⟩
  · exact ⟨_, rfl, .inr (.inl ⟨ho, rfl⟩)⟩
  · refine ⟨_, rfl, ?_⟩
    by_cases hc : coordsAccepted s.geom (aField w).toInt (bField w).toInt = true
    · exact .inr (.inr (.inr (.inl ⟨ho, hc, if_pos hc⟩)))
    · exact .inr (.inr (.inl ⟨ho, if_neg hc, by simpa using hc⟩))
  · exact ⟨_, rfl, .inr (.inr (.inr (.inr ⟨ho, rfl⟩)))⟩

/-- The block's turn (R60, spec/42_send.md R100). -/
theorem blockStep_cases {s t : State} (h : blockStep s = .next t) :
    (s.fetch = .nothing ∧ t = s) ∨
    (s.cmdReady = true ∧ ∃ w, s.port = some w ∧ exec (decodeCommand w) s.clearPort = .next t) ∨
    (s.st = .run ∧ (s.seq.phase = .preSel ∨ s.seq.phase = .postSel) ∧ t = s.selectReset) ∨
    (s.st = .run ∧ (s.seq.phase = .preTx ∨ s.seq.phase = .postTx) ∧ t = s.advance s.txReset) ∨
    (s.st = .run ∧ s.seq.phase = .dataTx ∧ ∃ v, s.pbRead s.seq.pix = some v ∧
      t = s.advance (s.txBit (v.getLsbD s.seq.bit.val))) := by
  by_cases hst : s.st = .halt
  · have hf : s.fetch = .nothing := if_pos hst
    simp only [blockStep, hf] at h
    injection h with h
    exact .inl ⟨hf, h.symm⟩
  have hrun : s.st = .run := by cases hs : s.st <;> simp_all
  cases hp : s.seq.phase with
  | idle =>
    have hf : s.fetch = s.fetchCommand := by simp [State.fetch, hst, hp]
    cases hport : s.port with
    | none =>
      have hn : s.fetch = .nothing := by rw [hf]; simp [State.fetchCommand, hport]
      simp only [blockStep, hn] at h
      injection h with h
      exact .inl ⟨hn, h.symm⟩
    | some w =>
      by_cases hr : s.cmdReady = true
      · have hn : s.fetch = .command (decodeCommand w) := by rw [hf]; simp [State.fetchCommand, hport, hr]
        simp only [blockStep, hn] at h
        exact .inr (.inl ⟨hr, w, rfl, h⟩)
      · have hn : s.fetch = .nothing := by rw [hf]; simp [State.fetchCommand, hport, hr]
        simp only [blockStep, hn] at h
        injection h with h
        exact .inl ⟨hn, h.symm⟩
  | preSel =>
    have hf : s.fetch = .select := by simp [State.fetch, hst, hp]
    simp only [blockStep, hf] at h
    injection h with h
    exact .inr (.inr (.inl ⟨hrun, .inl rfl, h.symm⟩))
  | postSel =>
    have hf : s.fetch = .select := by simp [State.fetch, hst, hp]
    simp only [blockStep, hf] at h
    injection h with h
    exact .inr (.inr (.inl ⟨hrun, .inr rfl, h.symm⟩))
  | preTx =>
    have hf : s.fetch = .token .tokenRst := by simp [State.fetch, hst, hp]
    simp only [blockStep, hf] at h
    injection h with h
    exact .inr (.inr (.inr (.inl ⟨hrun, .inl rfl, h.symm⟩)))
  | postTx =>
    have hf : s.fetch = .token .tokenRst := by simp [State.fetch, hst, hp]
    simp only [blockStep, hf] at h
    injection h with h
    exact .inr (.inr (.inr (.inl ⟨hrun, .inr rfl, h.symm⟩)))
  | dataTx =>
    have hf : s.fetch = s.fetchBit := by simp [State.fetch, hst, hp]
    cases hv : s.pbRead s.seq.pix with
    | none => simp [blockStep, hf, State.fetchBit, hv] at h
    | some v =>
      cases hb : v.getLsbD s.seq.bit.val with
      | false =>
        have hn : s.fetch = .token .tokenT0 := by rw [hf]; simp only [State.fetchBit, hv]; rw [hb]; rfl
        simp only [blockStep, hn] at h
        injection h with h
        exact .inr (.inr (.inr (.inr ⟨hrun, rfl, v, rfl, by rw [hb]; exact h.symm⟩)))
      | true =>
        have hn : s.fetch = .token .tokenT1 := by rw [hf]; simp only [State.fetchBit, hv]; rw [hb]; rfl
        simp only [blockStep, hn] at h
        injection h with h
        exact .inr (.inr (.inr (.inr ⟨hrun, rfl, v, rfl, by rw [hb]; exact h.symm⟩)))

/-! ### The transmitting phases (spec/42_send.md R100) -/

theorem State.pbRead_of_lt {s : State} {a : Nat} (h : a < s.geom.n) : s.pbRead a = some (Memory.read s.pb a) := if_pos h

theorem State.fetch_of_run {s : State} (h : s.st = .run) :
    s.fetch = match s.seq.phase with
      | .idle    => s.fetchCommand
      | .preSel  => .select
      | .preTx   => .token .tokenRst
      | .dataTx  => s.fetchBit
      | .postSel => .select
      | .postTx  => .token .tokenRst :=
  if_neg (by rw [h]; decide)

theorem State.fetch_of_dataTx {s : State} (h : s.st = .run) (hp : s.seq.phase = .dataTx) (hx : s.seq.pix < s.geom.n) :
    s.fetch = .token (if (Memory.read s.pb s.seq.pix).getLsbD s.seq.bit.val then .tokenT1 else .tokenT0) := by
  rw [State.fetch_of_run h, hp]
  show s.fetchBit = _
  simp only [State.fetchBit, State.pbRead_of_lt hx]
  split_ifs <;> rfl

theorem exec_dataBit (s : State) (d : Bool) : exec (if d then .tokenT1 else .tokenT0) s = .next (s.txBit d) := by
  cases d <;> rfl

theorem State.advance_wait {s : State} (h : s.txReady = false) (after : State) : s.advance after = after :=
  if_neg (by rw [h]; decide)

theorem State.advance_preTx {s : State} (h : s.txReady = true) (hp : s.seq.phase = .preTx) (after : State) :
    s.advance after = { after with seq := { phase := .dataTx, pix := 0, bit := 23 } } := by
  rw [State.advance, if_pos h, hp]

theorem State.advance_dataTx {s : State} (h : s.txReady = true) (hp : s.seq.phase = .dataTx) (after : State) :
    s.advance after = { after with seq := nextDataSeq s.geom.n s.seq } := by
  rw [State.advance, if_pos h, hp]

theorem State.advance_postTx {s : State} (h : s.txReady = true) (hp : s.seq.phase = .postTx) (after : State) :
    s.advance after = { after.setIrqMask false with seq := { s.seq with phase := .idle } } := by
  rw [State.advance, if_pos h, hp]

/-- One bit further in the frame, or on to the second reset pulse. -/
theorem nextDataSeq_spec {n : Nat} {q : Seq} (hq : q.phase = .dataTx) (hx : q.pix < n) :
    ((nextDataSeq n q).phase = .dataTx ∧ (nextDataSeq n q).pix < n ∧
      24 * (nextDataSeq n q).pix + (23 - (nextDataSeq n q).bit.val) = 24 * q.pix + (23 - q.bit.val) + 1) ∨
    ((nextDataSeq n q).phase = .postSel ∧ 24 * n = 24 * q.pix + (23 - q.bit.val) + 1) := by
  have hb := q.bit.isLt
  unfold nextDataSeq
  split_ifs with h1 h2
  · refine .inl ⟨hq, hx, ?_⟩
    simp only
    omega
  · refine .inl ⟨hq, h2, ?_⟩
    show 24 * (q.pix + 1) + (23 - 23) = _
    omega
  · exact .inr ⟨rfl, by omega⟩

/-- The block's turn, every case worked out. -/
theorem blockStep_spec {s t : State} (h : blockStep s = .next t) :
    (s.fetch = .nothing ∧ t = s) ∨
    (s.cmdReady = true ∧ ∃ w, s.port = some w ∧
      ((opField w = 0#2 ∧ t = s.clearPort.pbClear) ∨
       (opField w = 1#2 ∧ t = s.clearPort.setLinear (aField w).toInt (rgbField w)) ∨
       (opField w = 2#2 ∧ t = s.clearPort ∧ coordsAccepted s.geom (aField w).toInt (bField w).toInt = false) ∨
       (opField w = 2#2 ∧ coordsAccepted s.geom (aField w).toInt (bField w).toInt = true ∧
         t = s.clearPort.setLinear (lin2d s.geom (aField w).toInt.toNat (bField w).toInt.toNat : Nat) (rgbField w)) ∨
       (opField w = 3#2 ∧ t = { s.clearPort.setIrqMask true with seq := { s.seq with phase := .preSel } }))) ∨
    (s.st = .run ∧ (s.seq.phase = .preSel ∨ s.seq.phase = .postSel) ∧ t = s.selectReset) ∨
    (s.st = .run ∧ (s.seq.phase = .preTx ∨ s.seq.phase = .postTx) ∧ s.txReady = false ∧ t = s.selectProfile .reset) ∨
    (s.st = .run ∧ s.seq.phase = .dataTx ∧ s.txReady = false ∧ s.seq.pix < s.geom.n ∧ t = s) ∨
    (s.st = .run ∧ s.txReady = true ∧ s.seq.phase = .preTx ∧
      t = { ((s.selectProfile .reset).emit s.params.bus.resetWord).selectProfile .data with
            seq := ⟨.dataTx, 0, 23⟩ }) ∨
    (s.st = .run ∧ s.txReady = true ∧ s.seq.phase = .postTx ∧
      t = { (((s.selectProfile .reset).emit s.params.bus.resetWord).selectProfile .data).setIrqMask false with
            seq := { s.seq with phase := .idle } }) ∨
    (s.st = .run ∧ s.txReady = true ∧ s.seq.phase = .dataTx ∧ s.seq.pix < s.geom.n ∧
      t = { s.emit (sym s.params.bus ((Memory.read s.pb s.seq.pix).getLsbD s.seq.bit.val)) with
            seq := nextDataSeq s.geom.n s.seq }) := by
  rcases blockStep_cases h with h | ⟨hr, w, hp, he⟩ | h | ⟨h1, h2, h3⟩ | ⟨h1, h2, v, hv, h3⟩
  · exact .inl h
  · obtain ⟨t', ht', hc⟩ := exec_decodeCommand_cases w s.clearPort
    rw [he] at ht'
    injection ht' with ht'
    subst ht'
    exact .inr (.inl ⟨hr, w, hp, hc⟩)
  · exact .inr (.inr (.inl h))
  · cases hr : s.txReady
    · rw [State.advance_wait hr, State.txReset_wait hr] at h3
      exact .inr (.inr (.inr (.inl ⟨h1, h2, rfl, h3⟩)))
    · rw [State.txReset_ready hr] at h3
      rcases h2 with h2 | h2
      · rw [State.advance_preTx hr h2] at h3
        exact .inr (.inr (.inr (.inr (.inr (.inl ⟨h1, rfl, h2, h3⟩)))))
      · rw [State.advance_postTx hr h2] at h3
        exact .inr (.inr (.inr (.inr (.inr (.inr (.inl ⟨h1, rfl, h2, h3⟩))))))
  · have hx : s.seq.pix < s.geom.n := by
      by_contra hx
      rw [State.pbRead, if_neg hx] at hv
      cases hv
    rw [State.pbRead_of_lt hx] at hv
    injection hv with hv
    subst hv
    cases hr : s.txReady
    · rw [State.advance_wait hr, State.txBit, State.txWord_wait hr] at h3
      exact .inr (.inr (.inr (.inr (.inl ⟨h1, h2, rfl, hx, h3⟩))))
    · rw [State.advance_dataTx hr h2, State.txBit, State.txWord_ready hr] at h3
      exact .inr (.inr (.inr (.inr (.inr (.inr (.inr ⟨h1, rfl, h2, hx, h3⟩))))))

/-- The state after one move, when there is one (spec/00_scope.md R8). -/
theorem runMove_cases {m : Move} {s t : State} (h : runMove m s = .next t) :
    (∃ p, m = .construct p ∧ geometryOk (geomOf p).w (geomOf p).h = true ∧ t = s.constructed p) ∨
    ((s.fault = .none ∨ s.fault = .cfgMismatch) ∧
      ((m = .transmitterReady ∧ t = s.raiseTxReady) ∨
       (∃ w, m = .present w ∧ t = s.presentCommand w) ∨
       (m = .withdraw ∧ t = s.clearPort) ∨
       (m = .block ∧ blockStep s = .next t))) := by
  have stands : ∀ {o : Host.Outcome State Fault Refusal}, unlessOobWrite s o = .next t →
      (s.fault = .none ∨ s.fault = .cfgMismatch) ∧ o = .next t := by
    intro o ho
    cases hf : s.fault <;> simp_all [unlessOobWrite]
  cases m with
  | construct p => exact .inl ⟨p, rfl, (construct_next h).1, (construct_next h).2⟩
  | block => exact .inr ⟨(stands h).1, .inr (.inr (.inr ⟨rfl, (stands h).2⟩))⟩
  | transmitterReady =>
    obtain ⟨hf, ho⟩ := stands h
    injection ho with ho
    exact .inr ⟨hf, .inl ⟨rfl, ho.symm⟩⟩
  | present w =>
    obtain ⟨hf, ho⟩ := stands h
    injection ho with ho
    exact .inr ⟨hf, .inr (.inl ⟨w, rfl, ho.symm⟩)⟩
  | withdraw =>
    obtain ⟨hf, ho⟩ := stands h
    injection ho with ho
    exact .inr ⟨hf, .inr (.inr (.inl ⟨rfl, ho.symm⟩))⟩

/-- One step, when it has a next state: a construction, or a move of a machine without `OobWrite`. -/
theorem step_cases {s t : State} (h : step s = .next t) :
    (∃ p, s.nextMove = .construct p ∧ geometryOk (geomOf p).w (geomOf p).h = true ∧ t = s.popMove.constructed p) ∨
    ((s.fault = .none ∨ s.fault = .cfgMismatch) ∧
      ((s.nextMove = .transmitterReady ∧ t = s.popMove.raiseTxReady) ∨
       (∃ w, s.nextMove = .present w ∧ t = s.popMove.presentCommand w) ∨
       (s.nextMove = .withdraw ∧ t = s.popMove.clearPort) ∨
       (s.nextMove = .block ∧ blockStep s.popMove = .next t))) := by
  rcases runMove_cases h with h | ⟨hf, h⟩
  · exact .inl h
  · exact .inr ⟨by simpa using hf, h⟩

/-! ### The transmitter's ports (spec/30_encoding.md R73) -/

theorem State.blockRuns_iff (s : State) :
    s.blockRuns = true ↔ s.nextMove = .block ∧ s.st = .run ∧ ∀ a v, s.fault ≠ .oobWrite a v := by
  cases hf : s.fault <;> simp [State.blockRuns, hf]

/-- The port is idle or carries the pending word under the selected profile, in a step of the block with `TX_READY = 1`. -/
theorem State.txPort_cases (s : State) :
    (s.txPort = none ∧ (s.blockRuns = false ∨ s.txReady = false ∨ s.pendingWord = none)) ∨
    (s.blockRuns = true ∧ s.txReady = true ∧ ∃ w, s.pendingWord = some w ∧ s.txPort = some ⟨s.bcs.ctas, w⟩) := by
  cases hb : s.blockRuns <;> cases hr : s.txReady <;> cases hw : s.pendingWord <;> simp [State.txPort, hb, hr, hw]

/-- No token stands on the port in a step of another agent. -/
theorem State.txPort_of_not_block {s : State} (h : s.nextMove ≠ .block) : s.txPort = none := by
  rcases s.txPort_cases with ⟨h', -⟩ | ⟨hb, -⟩
  · exact h'
  · exact absurd (s.blockRuns_iff.mp hb).1 h

/-- The block's turn in a machine without a fault. -/
theorem step_of_block {s : State} (hm : s.nextMove = .block) (hf : s.fault = .none) : step s = blockStep s.popMove := by
  simp only [step, hm, runMove, unlessOobWrite, State.popMove_fault, hf]

/-- A run of `k + 1` steps starts with one step. -/
theorem run_succ {k : Nat} {s t : State} (h : step s = .next t) :
    Sys2Proof.core.run (k + 1) s = Sys2Proof.core.run k t := by
  have gen : ∀ (M : Host.Core) (a b : M.State), M.step a = .next b → M.run (k + 1) a = M.run k b := by
    intro M a b e
    simp only [Host.Core.run, e]
  exact gen Sys2Proof.core s t h

end Sys2Proof.Machine
end

