-- ==== Sys2Proof/Tests/Slice0.lean ====
section
/-!
SUPPORT. The model's own tests and the witnesses of the statements' hypotheses. Expected values come from
spec/95_test_vectors.md (the vector is named at each test) or are worked out by hand from the rule named.
-/
namespace Sys2Proof.Tests
open Sys2Proof Sys2Proof.Machine Sys2Proof.Claims

/-! ### Syntax and parameters: what the checks refuse -/

theorem test_set_index_must_fit : (Instr.set 2147483648 0).wellFormed = false := by decide
theorem test_set_index_lowest_fits : (Instr.set (-2147483648) 0).wellFormed = true := by decide
theorem test_setxy_x_must_fit : (Instr.setxy (-2147483649) 0 0).wellFormed = false := by decide
theorem test_setxy_y_must_fit : (Instr.setxy 0 2147483648 0).wellFormed = false := by decide
theorem test_one_bit_words_refused : BusParams.wellFormed { wordBits := 1, pat1 := 1, pat0 := 0 } = false := by decide
theorem test_equal_patterns_refused : BusParams.wellFormed { wordBits := 8, pat1 := 5, pat0 := 5 } = false := by decide
theorem test_zero_width_refused : geometryOk 0 1 = false := by decide
theorem test_zero_height_refused : geometryOk 1 0 = false := by decide
theorem test_oversized_refused : geometryOk 46340 46340 = false := by decide
theorem test_largest_square_accepted : geometryOk 46339 46339 = true := by decide
/-- `REFCFG` shifted from its top bit: 5 ones and 2 ones (R7, R109). -/
theorem test_refcfg_waveform :
    waveformOk [true, true, true, true, true, false, false, false]
      [true, true, false, false, false, false, false, false] 5 2 = true := by decide
theorem test_waveform_needs_a_longer_one :
    waveformOk [true, true, false, false] [true, true, false, false] 2 2 = false := by decide

/-! ### Encodings -/

/-- V8. -/
theorem test_decode_clear : decodeCommand 0x00000000000000000000000 = .clear := by decide
/-- V8. -/
theorem test_decode_set : decodeCommand 0x10000000500000000102030 = .set 5 0x102030 := by decide
/-- V8: `a` is signed. -/
theorem test_decode_set_negative : decodeCommand 0x1FFFFFFFF00000000FFFFFF = .set (-1) 0xFFFFFF := by decide
/-- V8: `a` is x, `b` is y; with different values so that a swap shows (R61, R62). -/
theorem test_decode_setxy : decodeCommand 0x2000000040000000000FF00 = .setxy 4 0 0x00FF00 := by decide
/-- V8. -/
theorem test_decode_send : decodeCommand 0x30000000000000000000000 = .send := by decide
/-- V8: unused digits are ignored (R70). -/
theorem test_decode_ignores_unused_fields : decodeCommand 0x0DEADBEEFCAFEF00D123456 = .clear := by decide
/-- R66 under `REFCFG`. -/
theorem test_decode_token_rst : decode BusParams.refcfg (.token ⟨.reset, ⟨8, 0x00⟩⟩) = .ok .tokenRst := by rfl
/-- R66 under `REFCFG`. -/
theorem test_decode_token_t0 : decode BusParams.refcfg (.token ⟨.data, ⟨8, 0xC0⟩⟩) = .ok .tokenT0 := by rfl
/-- R66 under `REFCFG`. -/
theorem test_decode_token_t1 : decode BusParams.refcfg (.token ⟨.data, ⟨8, 0xF8⟩⟩) = .ok .tokenT1 := by rfl
/-- R66: a zero word under `DATA` is no token of a frame. -/
theorem test_decode_other_token :
    decode BusParams.refcfg (.token ⟨.data, ⟨8, 0x00⟩⟩) = .error (.notAToken ⟨.data, ⟨8, 0x00⟩⟩) := by rfl
/-- The table's own numbering: bits 89:88 of the 96. -/
theorem test_table_words_of_commands :
    decodeTableWord 96 0 = some .clear ∧ decodeTableWord 96 (1 * 2 ^ 88) = some (.set 0 0) ∧
    decodeTableWord 96 (2 * 2 ^ 88) = some (.setxy 0 0 0) ∧ decodeTableWord 96 (3 * 2 ^ 88) = some .send ∧
    decodeTableWord 96 (2 ^ 90) = none := by decide
/-- The table's token rows: bit 8 the profile, then the word. -/
theorem test_table_words_of_tokens :
    decodeTableWord 16 0x100 = some .tokenRst ∧ decodeTableWord 16 0x0C0 = some .tokenT0 ∧
    decodeTableWord 16 0x0F8 = some .tokenT1 ∧ decodeTableWord 16 0x1F8 = none ∧ decodeTableWord 16 0x200 = none := by
  decide

/-! ### The pure functions -/

/-- `T_ID` of spec/95_test_vectors.md. -/
def tId : CctTable := Vector.ofFn fun i => BitVec.ofNat 8 i.val

/-- `T_INV` of spec/95_test_vectors.md. -/
def tInv : CctTable := Vector.ofFn fun i => BitVec.ofNat 8 (255 - 2 * i.val)

/-- V4. -/
theorem test_dimdiv :
    [0x00, 0x01, 0x02, 0x03, 0x7F, 0x80, 0x81, 0xFE, 0xFF].map dimdiv =
      [0x00, 0x00, 0x01, 0x01, 0x3F, 0x40, 0x40, 0x7F, 0x7F] := by decide
/-- V5: three different channels, so that a swap shows. -/
theorem test_correct_permutes : correct tId 0x123456 = 0x1A092B := by decide
/-- V5: the table is applied, black included. -/
theorem test_correct_looks_up : correct tInv 0x102030 = 0xDFEFCF ∧ correct tInv 0x000000 = 0xFFFFFF := by decide
/-- V6, `W = 4`, `H = 2`, `ALT = 1`; with V1's two slots. -/
theorem test_xlate_even_height :
    (List.range 9).map (xlate { w := 4, h := 2, alt := true }) = [0, 1, 2, 3, 7, 6, 5, 4, 8] := by decide
/-- V6, `W = 3`, `H = 3`, `ALT = 1`. -/
theorem test_xlate_odd_height :
    (List.range 10).map (xlate { w := 3, h := 3, alt := true }) = [0, 1, 2, 5, 4, 3, 6, 7, 8, 11] := by decide
/-- V7: (1, 1) and the alias (4, 0). -/
theorem test_lin2d :
    xlate ⟨4, 2, true⟩ (lin2d ⟨4, 2, true⟩ 1 1) = 6 ∧ xlate ⟨4, 2, true⟩ (lin2d ⟨4, 2, true⟩ 4 0) = 7 := by decide
/-- V11: bit 23 goes first. -/
theorem test_enc24_order :
    (enc24 BusParams.refcfg 0x800000).map Token.word = ⟨8, 0xF8⟩ :: List.replicate 23 ⟨8, 0xC0⟩ := by decide
/-- The codes of R124, R25 and R23. -/
theorem test_codes :
    (FaultRecord.oobWrite 4 0).code = 2 ∧ Phase.postTx.code = 5 ∧ (Bcs.mk .reset false true).bits = 5 := by decide

/-! ### One step on a small state -/

/-- A running instance of `REFCFG` with `T_ID`, an empty buffer and no fault, in the phase given. -/
def demo (g : Geom) (ph : Phase) (pix : Nat) (bit : Fin 24) (ready : Bool) (port : Option CmdWord)
    (moves : List Move) : State :=
  { geom := g, pb := [], bcs := { ctas := ph.profile, cont := false, eoq := true }
    irqMask := decide (ph ≠ .idle), seq := { phase := ph, pix := pix, bit := bit }
    st := .run, fault := .none, txReady := ready, txlog := [], pastLogs := [], port := port, moves := moves
    params := { bus := BusParams.refcfg, cct := tId, busBitOrder := 1, busCpol := 0, dataHz := 0, resetHz := 0
                eoqInit := true, contInit := false } }

/-- An idle instance of `W = 2`, `H = 2`, `ALT = 0`, with a command on the port. -/
def idle22 (w : CmdWord) : State := demo ⟨2, 2, false⟩ .idle 0 0 true (some w) []

theorem demo_inv {g : Geom} {ph : Phase} {pix : Nat} {bit : Fin 24} {ready : Bool} {port : Option CmdWord}
    {moves : List Move} (hg : geometryOk g.w g.h = true) (hp : ph = .dataTx → pix < g.n) :
    (demo g ph pix bit ready port moves).Inv :=
  ⟨by show BusParams.wellFormed BusParams.refcfg = true; decide, hg, rfl, rfl, fun _ => .inl rfl, rfl, rfl, hp,
    fun _ => ⟨rfl, rfl⟩, by simp [demo]⟩

/-- V9: slot 3 is the last. -/
theorem test_set_last_slot :
    ∃ t, exec (.set 3 0x0000FE) (idle22 0) = .next t ∧ t.pb = [(3, 0x00007F)] ∧ t.fault = .none :=
  ⟨_, rfl, by decide, rfl⟩
/-- V9: index `N` passes the check and the write raises. -/
theorem test_set_index_n :
    ∃ t, exec (.set 4 0x0000FE) (idle22 0) = .next t ∧ t.pb = [] ∧ t.fault = .oobWrite 4 0x00007F :=
  ⟨_, rfl, rfl, by decide⟩
/-- V9: above `N` the command is dropped. -/
theorem test_set_dropped : exec (.set 5 0x0000FE) (idle22 0) = .next (idle22 0) := rfl
/-- V9, `W = 2`, `H = 3`, `ALT = 1`: (2, 2) raises at slot 7. -/
theorem test_setxy_raises :
    ∃ t, exec (.setxy 2 2 0x020406) (demo ⟨2, 3, true⟩ .idle 0 0 true none []) = .next t ∧
      t.fault = .oobWrite 7 0x020103 := ⟨_, rfl, by decide⟩
/-- V9, same instance: (1, 3) passes SETXY's check and is dropped by SET's. -/
theorem test_setxy_dropped :
    exec (.setxy 1 3 0x020406) (demo ⟨2, 3, true⟩ .idle 0 0 true none []) =
      .next (demo ⟨2, 3, true⟩ .idle 0 0 true none []) := rfl
/-- R90, R121: CLEAR writes zeros, and the port is left. -/
theorem test_step_clear :
    ∃ t, step { idle22 0x00000000000000000000000 with pb := [(1, 0x010203)] } = .next t ∧ t.pb = [] ∧ t.port = none :=
  ⟨_, rfl, rfl, rfl⟩
/-- R100: the accepting step. -/
theorem test_step_send :
    ∃ t, step (idle22 0x30000000000000000000000) = .next t ∧ t.irqMask = true ∧ t.seq.phase = .preSel ∧
      t.txlog = [.irqMask true] ∧ t.cmdReady = false := ⟨_, rfl, rfl, rfl, rfl, rfl⟩
/-- V11: TXRESET emits `R:00`, and the selector is `DATA` after. -/
theorem test_token_rst :
    ∃ t, exec .tokenRst (demo ⟨1, 1, false⟩ .preTx 0 0 true none []) = .next t ∧
      t.txlog = [.token ⟨.reset, ⟨8, 0x00⟩⟩] ∧ t.bcs.ctas = .data ∧ t.txReady = false := ⟨_, rfl, rfl, rfl, rfl⟩
/-- V11: `TXBIT(0)`. -/
theorem test_token_t0 :
    ∃ t, exec .tokenT0 (demo ⟨1, 1, false⟩ .dataTx 0 0 true none []) = .next t ∧
      t.txlog = [.token ⟨.data, ⟨8, 0xC0⟩⟩] ∧ t.txReady = false := ⟨_, rfl, rfl, rfl⟩
/-- V11: `TXBIT(1)`. -/
theorem test_token_t1 :
    ∃ t, exec .tokenT1 (demo ⟨1, 1, false⟩ .dataTx 0 0 true none []) = .next t ∧
      t.txlog = [.token ⟨.data, ⟨8, 0xF8⟩⟩] ∧ t.txReady = false := ⟨_, rfl, rfl, rfl⟩
/-- V12, third line: the last bit of the last pixel. -/
theorem test_step_last_bit :
    ∃ t, step { demo ⟨1, 1, false⟩ .dataTx 0 0 true none [] with pb := [(0, 1)] } = .next t ∧
      t.txlog = [.token ⟨.data, ⟨8, 0xF8⟩⟩] ∧ t.txReady = false ∧ t.seq.phase = .postSel := ⟨_, rfl, rfl, rfl, rfl⟩
/-- V12, fourth line: on to the next pixel. -/
theorem test_step_next_pixel :
    ∃ t, step (demo ⟨2, 1, false⟩ .dataTx 0 0 true none []) = .next t ∧ t.seq = ⟨.dataTx, 1, 23⟩ := ⟨_, rfl, rfl⟩
/-- V12, first line: without the flag the block does nothing. -/
theorem test_step_waits :
    step (demo ⟨1, 1, false⟩ .dataTx 0 0 false none []) = .next (demo ⟨1, 1, false⟩ .dataTx 0 0 false none []) := rfl
/-- R25, log 20: a slot that does not exist stops the machine. -/
theorem test_step_missing_slot :
    step (demo ⟨1, 1, false⟩ .dataTx 1 0 true none []) = .fault (.readOutsideBuffer 1) := rfl

/-- The ports of a construction. -/
def ports (w h range : IntWord) : Straps := { cfgWidth := w, cfgHeight := h, cfgAlt := true, cfgPin := 7, cctRange := range }

/-- V10: width -3, height 2. -/
theorem test_construct_clamps :
    ∃ t, step (demo ⟨1, 1, false⟩ .dataTx 0 0 true none [.construct (ports (-3) 2 0x100)]) = .next t ∧
      t.geom = ⟨1, 2, true⟩ ∧ t.st = .run ∧ t.seq.phase = .idle := ⟨_, rfl, by decide, by decide, rfl⟩
/-- V10: range 0x101. -/
theorem test_construct_halts :
    ∃ t, step (demo ⟨1, 1, false⟩ .idle 0 0 true none [.construct (ports 4 2 0x101)]) = .next t ∧
      t.st = .halt ∧ t.fault = .cfgMismatch := ⟨_, rfl, by decide, by decide⟩

/-! ### The first instruction after reset -/

theorem test_first_command_after_reset :
    step (State.reset.withFetchWord 96 (3 * 2 ^ 88)) = exec .send { State.reset with moves := [], port := none } := rfl
theorem test_first_token_after_reset :
    ∃ t, exec .tokenT1 { State.reset.withFetchWord 16 0x0F8 with moves := [] } = .next t ∧
      step (State.reset.withFetchWord 16 0x0F8) =
        .next ({ State.reset.withFetchWord 16 0x0F8 with moves := [] }.advance t) := ⟨_, rfl, rfl⟩

/-! ### Witnesses: states and operands that meet the hypotheses of each statement -/

theorem witness_CommandFieldsStandWhereTheFormatSays (op : BitVec 2) :
    (packCommand op 0xFFFFFFFF 0x80000000 0xFFFFFF).toNat =
      op.toNat * 2 ^ 88 + (0xFFFFFFFF : IntWord).toNat * 2 ^ 56 + (0x80000000 : IntWord).toNat * 2 ^ 24 +
        (0xFFFFFF : Rgb).toNat := toNat_packCommand _ _ _ _

theorem witness_DecodeOfEncodeIsTheInstruction :
    BusParams.refcfg.wellFormed = true ∧ (Instr.set (-2147483648) 0xFFFFFF).wellFormed = true ∧
    (Instr.setxy 2147483647 (-2147483648) 1).wellFormed = true ∧ Instr.clear.wellFormed = true ∧
    Instr.send.wellFormed = true ∧ Instr.tokenRst.wellFormed = true ∧ Instr.tokenT0.wellFormed = true ∧
    Instr.tokenT1.wellFormed = true := by decide

theorem witness_OnlyTheThreeTokensDecode :
    BusParams.refcfg.wellFormed = true ∧
    tokenT1Of BusParams.refcfg ≠ tokenRstOf BusParams.refcfg ∧
    (⟨.data, ⟨8, 0x00⟩⟩ : Token) ≠ tokenRstOf BusParams.refcfg := by decide

theorem witness_ConstructionLeavesTheResetValues :
    (demo ⟨1, 1, false⟩ .idle 0 0 true none [.construct (ports 0 5 0x100)]).nextMove = .construct (ports 0 5 0x100) ∧
    geometryOk (geomOf (ports 0 5 0x100)).w (geomOf (ports 0 5 0x100)).h = true ∧
    (ports 0 5 0x100).cctRange = 0x100 ∧
    geometryOk (geomOf (ports 46339 46339 0x101)).w (geomOf (ports 46339 46339 0x101)).h = true ∧
    (ports 46339 46339 0x101).cctRange ≠ 0x100 := by decide

theorem witness_ConstructionClampsOrRefusesTheGeometry :
    (demo ⟨1, 1, false⟩ .idle 0 0 true none [.construct (ports 46339 46339 0x100)]).nextMove =
      .construct (ports 46339 46339 0x100) ∧
    (max 1 (46339 : IntWord).toInt + 1) * (max 1 (46339 : IntWord).toInt + 1) ≤ 2 ^ 31 - 1 ∧
    2 ^ 31 - 1 < (max 1 (46340 : IntWord).toInt + 1) * (max 1 (46340 : IntWord).toInt + 1) := by decide

/-- A halted instance (R120). -/
def halted (moves : List Move) : State :=
  { demo ⟨1, 1, false⟩ .idle 0 0 true (some 0) moves with st := .halt, fault := .cfgMismatch }

theorem witness_HaltedBlockStaysHalted :
    (halted []).st = .halt ∧ (halted []).fault = .cfgMismatch ∧ (halted []).nextMove.isConstruct = false ∧
    (halted [.present 0]).nextMove.isConstruct = false := by decide

theorem witness_NoStepAfterOobWrite :
    ({ idle22 0 with fault := .oobWrite 4 1 } : State).fault = .oobWrite 4 1 ∧
    ({ idle22 0 with fault := .oobWrite 4 1 } : State).nextMove.isConstruct = false := by decide

theorem witness_FaultIsWritten_by_set :
    (idle22 0x10000000400000000000002).Inv ∧
    ∃ t, step (idle22 0x10000000400000000000002) = .next t ∧ t.fault = .oobWrite 4 1 :=
  ⟨demo_inv (by decide) (by decide), _, rfl, by decide⟩
theorem witness_FaultIsWritten_by_setxy_at_the_right_edge :
    (idle22 0x20000000200000001000002).Inv ∧
    ∃ t, step (idle22 0x20000000200000001000002) = .next t ∧ t.fault = .oobWrite 4 1 :=
  ⟨demo_inv (by decide) (by decide), _, rfl, by decide⟩
theorem witness_FaultIsWritten_by_setxy_below :
    (idle22 0x20000000000000002000002).Inv ∧
    ∃ t, step (idle22 0x20000000000000002000002) = .next t ∧ t.fault = .oobWrite 4 1 :=
  ⟨demo_inv (by decide) (by decide), _, rfl, by decide⟩
theorem witness_FaultIsWritten_by_construction :
    (demo ⟨1, 1, false⟩ .idle 0 0 true none [.construct (ports 4 2 0x101)]).Inv ∧
    ∃ t, step (demo ⟨1, 1, false⟩ .idle 0 0 true none [.construct (ports 4 2 0x101)]) = .next t ∧
      t.fault = .cfgMismatch :=
  ⟨demo_inv (by decide) (by decide), _, rfl, by decide⟩
theorem witness_FaultIsKept :
    (halted [.transmitterReady]).Inv ∧ ∃ t, step (halted [.transmitterReady]) = .next t ∧ t.fault = .cfgMismatch :=
  ⟨⟨by show BusParams.wellFormed BusParams.refcfg = true; decide, by decide, rfl, rfl, fun _ => .inl rfl, rfl, rfl,
    by decide, by decide, by decide⟩, _, rfl, rfl⟩

theorem witness_TranslatorIsItsOwnInverse :
    0 < (Geom.mk 4 2 false).n ∧ 7 < (Geom.mk 4 2 true).n ∧ 7 / 4 % 2 = 1 ∧ 3 < (Geom.mk 4 2 true).n ∧ 3 / 4 % 2 = 0 := by
  decide
theorem witness_TranslatorSendsTheBoundaryIndexOutside :
    1 ≤ (Geom.mk 1 1 false).w ∧ (Geom.mk 4 2 true).h % 2 = 0 ∧ (Geom.mk 5 1 true).h % 2 = 1 ∧
    1 ≤ (Geom.mk 5 1 true).h := by decide
theorem witness_CoordinatesReachTheirSlot :
    1 ≤ (Geom.mk 4 2 true).w ∧ 1 ≤ (Geom.mk 4 2 true).h ∧ 3 < (Geom.mk 4 2 true).w ∧ 1 < (Geom.mk 4 2 true).h ∧
    4 = (Geom.mk 4 2 true).w ∧ 0 + 1 < (Geom.mk 4 2 true).h ∧ 1 = (Geom.mk 4 2 true).h - 1 ∧
    2 = (Geom.mk 4 2 true).h := by decide

theorem witness_ClearZeroesEverySlot : opField 0x0DEADBEEFCAFEF00D123456 = 0 := by decide
theorem witness_SetOutcomeForEveryIndex :
    Memory.wf (idle22 0).pb = true ∧ (-1 : Int) < 0 ∧ (3 : Int) < (idle22 0).geom.n ∧ (4 : Int) = (idle22 0).geom.n ∧
    ((idle22 0).geom.n : Int) < 5 := by decide
theorem witness_SetxyOutcomeForEveryCoordinate :
    Memory.wf (idle22 0).pb = true ∧ geometryOk (idle22 0).geom.w (idle22 0).geom.h = true ∧
    ((idle22 0).geom.w : Int) < 3 ∧ (1 : Int) < (idle22 0).geom.w ∧ (1 : Int) < (idle22 0).geom.h ∧
    (2 : Int) = (idle22 0).geom.w ∧ (0 : Int) ≤ (idle22 0).geom.h - 2 ∧ (1 : Int) = (idle22 0).geom.h - 1 ∧
    (2 : Int) = (idle22 0).geom.h := by decide

theorem witness_SlotsHoldTheLastAcceptedWrite :
    [Instr.clear, .set 3 0xFF, .setxy 5 0 0, .setxy 1 1 0x80].all isBufferCommand = true ∧ (idle22 0).Inv ∧
    (idle22 0).fault = .none ∧
    ∃ t, execAll [.clear, .set 3 0xFF, .setxy 5 0 0, .setxy 1 1 0x80] (idle22 0) = .next t ∧ t.fault = .none :=
  ⟨by decide, demo_inv (by decide) (by decide), rfl, _, rfl, rfl⟩
theorem witness_EqualReadingBuffersAreEqual :
    Memory.wf [(0, 5), (3, 1)] = true ∧ ∀ a, Memory.read [(0, 5), (3, 1)] a = Memory.read [(0, 5), (3, 1)] a :=
  ⟨by decide, fun _ => rfl⟩

theorem witness_ResetPulseEmitsOneZeroWord :
    (demo ⟨1, 1, false⟩ .preTx 0 0 true none []).txReady = true ∧
    (demo ⟨1, 1, false⟩ .postTx 0 0 false none []).txReady = false := by decide
theorem witness_DataBitEmitsItsPattern :
    (demo ⟨1, 1, false⟩ .dataTx 0 0 true none []).txReady = true ∧
    (demo ⟨1, 1, false⟩ .dataTx 0 23 false none []).txReady = false := by decide
theorem witness_StepRunsThePresentedCommand :
    (idle22 0x10000000400000000000002).nextMove = .block ∧ (idle22 0x10000000400000000000002).cmdReady = true ∧
    (idle22 0x10000000400000000000002).port = some 0x10000000400000000000002 := by decide

theorem witness_StepFollowsTheSendSequencer_accepting :
    (idle22 0x30000000000000000000000).nextMove = .block ∧ (idle22 0x30000000000000000000000).Inv ∧
    (idle22 0x30000000000000000000000).cmdReady = true ∧ opField 0x30000000000000000000000 = 3 :=
  ⟨by decide, demo_inv (by decide) (by decide), by decide, by decide⟩
theorem witness_StepFollowsTheSendSequencer_selecting :
    (demo ⟨2, 1, false⟩ .preSel 0 0 true none []).nextMove = .block ∧
    (demo ⟨2, 1, false⟩ .preSel 0 0 true none []).Inv ∧ (demo ⟨2, 1, false⟩ .postSel 1 0 false none []).Inv :=
  ⟨by decide, demo_inv (by decide) (by decide), demo_inv (by decide) (by decide)⟩
theorem witness_StepFollowsTheSendSequencer_resetting :
    (demo ⟨2, 1, false⟩ .preTx 0 0 true none []).Inv ∧ (demo ⟨2, 1, false⟩ .postTx 1 0 true none []).Inv ∧
    (demo ⟨2, 1, false⟩ .preTx 0 0 false none []).Inv :=
  ⟨demo_inv (by decide) (by decide), demo_inv (by decide) (by decide), demo_inv (by decide) (by decide)⟩
/-- Bits 23 and 1 (next bit), bit 0 of the first pixel (next pixel), bit 0 of the last (second reset pulse). -/
theorem witness_StepFollowsTheSendSequencer_data :
    (demo ⟨2, 1, false⟩ .dataTx 0 23 true none []).Inv ∧ (demo ⟨2, 1, false⟩ .dataTx 1 1 true none []).Inv ∧
    (demo ⟨2, 1, false⟩ .dataTx 0 0 true none []).Inv ∧ (demo ⟨2, 1, false⟩ .dataTx 1 0 true none []).Inv ∧
    0 + 1 < (Geom.mk 2 1 false).n ∧ 1 + 1 = (Geom.mk 2 1 false).n :=
  ⟨demo_inv (by decide) (by decide), demo_inv (by decide) (by decide), demo_inv (by decide) (by decide),
    demo_inv (by decide) (by decide), by decide, by decide⟩

theorem witness_OtherAgentsTouchOnlyTheirOwn :
    (idle22 0).fault = .none ∧ (halted []).fault = .cfgMismatch ∧
    (demo ⟨1, 1, false⟩ .preTx 0 0 false none [.transmitterReady]).nextMove = .transmitterReady ∧
    (halted [.present 5]).nextMove = .present 5 ∧ (halted [.withdraw]).nextMove = .withdraw := by decide
theorem witness_FrameDeterminesTheBuffer :
    BusParams.refcfg.wellFormed = true ∧
    frame BusParams.refcfg [(0, 5)] 1 = frame BusParams.refcfg [(0, 5), (1, 9)] 1 := ⟨by decide, rfl⟩

theorem witness_SendEmitsExactlyTheFrame_accepting :
    (idle22 0x30000000000000000000000).Inv ∧ (idle22 0x30000000000000000000000).nextMove.isConstruct = false ∧
    ∃ t, step (idle22 0x30000000000000000000000) = .next t ∧ t.seq.phase ≠ .idle :=
  ⟨demo_inv (by decide) (by decide), by decide, _, rfl, by decide⟩

/-- A SEND of one dark pixel in its last phase: 25 tokens are out. -/
def lastPhase : State :=
  { demo ⟨1, 1, false⟩ .postTx 0 0 true none [] with
    txlog := .irqMask true :: .token ⟨.reset, ⟨8, 0⟩⟩ :: List.replicate 24 (.token ⟨.data, ⟨8, 0xC0⟩⟩) }

theorem lastPhase_inv : lastPhase.Inv :=
  ⟨by show BusParams.wellFormed BusParams.refcfg = true; decide, by decide, rfl, rfl, fun _ => .inl rfl, rfl, rfl,
    by decide, fun _ => ⟨rfl, rfl⟩, by decide⟩

theorem witness_SendEmitsExactlyTheFrame_ending :
    lastPhase.Inv ∧ FrameSoFar lastPhase [] ∧ ∃ t, step lastPhase = .next t ∧ t.seq.phase = .idle :=
  ⟨lastPhase_inv, rfl, _, rfl, rfl⟩

/-- An idle instance of one pixel with a SEND on the port and a transmitter that keeps up. -/
def fairSend : State := demo ⟨1, 1, true⟩ .idle 0 0 false (some 0x30000000000000000000000) (fairRounds 29)

theorem witness_SendEndsWhenTheTransmitterKeepsUp :
    fairSend.Inv ∧ fairSend.cmdReady = true ∧ fairSend.port = some 0x30000000000000000000000 ∧
    opField 0x30000000000000000000000 = 3 ∧ fairSend.moves = fairRounds (24 * fairSend.geom.n + 5) :=
  ⟨demo_inv (by decide) (by decide), rfl, rfl, by decide, rfl⟩
theorem witness_SendHangsWithoutTheTransmitter :
    (demo ⟨2, 1, false⟩ .dataTx 1 0 false none [.block, .present 0, .withdraw]).Inv ∧
    (demo ⟨2, 1, false⟩ .dataTx 1 0 false none [.block, .present 0, .withdraw]).txReady = false ∧
    ∀ m ∈ [Move.block, .present 0, .withdraw], m ≠ .transmitterReady ∧ m.isConstruct = false :=
  ⟨demo_inv (by decide) (by decide), rfl, by decide⟩

theorem witness_EveryStepKeepsTheInvariant :
    (idle22 0x10000000300000000000002).Inv ∧
    ∃ t, step (idle22 0x10000000300000000000002) = .next t ∧ t.pb = [(3, 1)] :=
  ⟨demo_inv (by decide) (by decide), _, rfl, by decide⟩
theorem witness_EveryTokenStandsUnderTheMask :
    lastPhase.Inv ∧ replayMask false lastPhase.txlog = some lastPhase.irqMask ∧
    logTokensOk lastPhase.params.bus lastPhase.txlog = true ∧ ∃ t, step lastPhase = .next t ∧ t.irqMask = false :=
  ⟨lastPhase_inv, by decide, by decide, _, rfl, rfl⟩
theorem witness_OnlyThreeTokensEverOccur :
    lastPhase.Inv ∧ logTokensOk lastPhase.params.bus lastPhase.txlog = true ∧ ∃ t, step lastPhase = .next t :=
  ⟨lastPhase_inv, by decide, _, rfl⟩
theorem witness_OnlyConstructionWritesTheGeometry :
    (∃ t, step (idle22 0) = .next t) ∧ (idle22 0).nextMove.isConstruct = false := ⟨⟨_, rfl⟩, rfl⟩
theorem witness_OnlySendWritesTheMask :
    (∃ t, step (idle22 0x30000000000000000000000) = .next t ∧ t.irqMask ≠ (idle22 0).irqMask) ∧
    (∃ t, step lastPhase = .next t ∧ t.irqMask ≠ lastPhase.irqMask) ∧
    ∃ t, step { lastPhase with moves := [.construct (ports 1 1 0x100)] } = .next t ∧ t.irqMask ≠ lastPhase.irqMask :=
  ⟨⟨_, rfl, by decide⟩, ⟨_, rfl, by decide⟩, _, rfl, by decide⟩
theorem witness_OnlyBufferCommandsWriteTheBuffer :
    (∃ t, step (idle22 0x10000000300000000000002) = .next t ∧ t.pb ≠ (idle22 0).pb) ∧
    ∃ t, step { idle22 0 with pb := [(0, 1)], moves := [.construct (ports 1 1 0x100)] } = .next t ∧ t.pb ≠ [(0, 1)] :=
  ⟨⟨_, rfl, by decide⟩, _, rfl, by decide⟩
theorem witness_ReadyFlagIsRaisedByTheTransmitterAndClearedByTxword :
    (∃ t, step (demo ⟨1, 1, false⟩ .preTx 0 0 false none [.transmitterReady]) = .next t ∧ t.txReady = true) ∧
    ∃ t, step (demo ⟨1, 1, false⟩ .preTx 0 0 true none []) = .next t ∧ t.txReady = false :=
  ⟨⟨_, rfl, rfl⟩, _, rfl, rfl⟩
theorem witness_NoCommandIsTakenWhileNotReady :
    (demo ⟨1, 1, false⟩ .preTx 0 0 true none []).cmdReady = false ∧
    (demo ⟨1, 1, false⟩ .preTx 0 0 true none []).nextMove = .block := by decide
/-- A step that emits, one of the block that does not, and steps of the host and of the transmitter with a bit ready to go. -/
theorem witness_TokenPortShowsWhatTheStepEmits :
    (demo ⟨1, 1, false⟩ .dataTx 0 5 true none []).Inv ∧ (demo ⟨1, 1, false⟩ .dataTx 0 5 true none []).txReadyClr = true ∧
    (∃ t, step (demo ⟨1, 1, false⟩ .dataTx 0 5 true none []) = .next t) ∧
    (idle22 0).Inv ∧ (idle22 0).nextMove.isConstruct = false ∧ (idle22 0).txReadyClr = false ∧
    ∃ t, step (idle22 0) = .next t :=
  ⟨demo_inv (by decide) (by decide), by decide, ⟨_, rfl⟩, demo_inv (by decide) (by decide), rfl, rfl, _, rfl⟩
theorem witness_TokenPort_in_steps_of_others :
    (demo ⟨1, 1, false⟩ .dataTx 0 5 true none [.withdraw]).Inv ∧
    (demo ⟨1, 1, false⟩ .dataTx 0 5 true none [.withdraw]).nextMove ≠ .block ∧
    (demo ⟨1, 1, false⟩ .dataTx 0 5 true none [.transmitterReady]).nextMove ≠ .block ∧
    ∃ t, step (demo ⟨1, 1, false⟩ .dataTx 0 5 true none [.withdraw]) = .next t :=
  ⟨demo_inv (by decide) (by decide), by decide, by decide, _, rfl⟩
/-- R73: with a bit ready to go the port is valid in the block's step and in no other's. -/
theorem test_port_valid_in_the_blocks_step_only :
    (demo ⟨1, 1, false⟩ .dataTx 0 5 true none []).txPort = some ⟨.data, ⟨8, 0xC0⟩⟩ ∧
    (demo ⟨1, 1, false⟩ .dataTx 0 5 true none [.present 0]).txPort = none ∧
    (demo ⟨1, 1, false⟩ .dataTx 0 5 true none [.transmitterReady]).txReadyClr = false := by decide
theorem witness_UnvaluedFlagsNeverMatter :
    (idle22 0).nextMove.isConstruct = false ∧
    ({ idle22 0 with moves := [.construct (ports 1 1 0x100)] } : State).nextMove.isConstruct = true := by decide
theorem witness_DataNeverChangesTheSequence :
    ∃ t, step (demo ⟨1, 1, false⟩ .dataTx 0 5 true none []) = .next t ∧ t.seq.bit = 4 := ⟨_, rfl, rfl⟩

end Sys2Proof.Tests
end

section
/-!
PROOFS of the statements on 10_state.md. The block's turn is sorted into four kinds, by what it may write, and each statement on what
a step changes is read off that; the invariant is kept operation by operation.
-/

namespace Sys2Proof.Machine
open Sys2Proof.Claims

/-! ### The canonical form of the buffer determines it (log 12) -/

/-- In the canonical form the first listed slot does not read 0. -/
theorem Memory.read_head_ne_zero {c : Nat × Entry} {m : Memory} (h : Memory.wf (c :: m) = true) :
    Memory.read (c :: m) c.1 ≠ 0#24 := by
  obtain ⟨-, hv, -⟩ := (Memory.wf_cons c m).mp h
  rwa [Memory.read_cons, if_pos rfl]

/-- A slot below the first listed one reads 0. -/
theorem Memory.read_eq_zero_of_lt_head {c : Nat × Entry} {m : Memory} {a : Nat} (h : Memory.wf (c :: m) = true)
    (ha : a < c.1) : Memory.read (c :: m) a = 0#24 := by
  obtain ⟨hab, -, -⟩ := (Memory.wf_cons c m).mp h
  rw [Memory.read_cons, if_neg ha.ne, Memory.read_eq_zero_of_above hab ha.le]

/-- Memories that read alike list the same first slot. -/
theorem Memory.head_eq_of_read_eq {c d : Nat × Entry} {m m' : Memory} (h : Memory.wf (c :: m) = true)
    (h' : Memory.wf (d :: m') = true) (hr : ∀ a, Memory.read (c :: m) a = Memory.read (d :: m') a) : c = d := by
  have hslot : c.1 = d.1 := by
    rcases lt_trichotomy c.1 d.1 with hlt | heq | hgt
    · exact absurd ((hr c.1).trans (Memory.read_eq_zero_of_lt_head h' hlt)) (Memory.read_head_ne_zero h)
    · exact heq
    · exact absurd ((hr d.1).symm.trans (Memory.read_eq_zero_of_lt_head h hgt)) (Memory.read_head_ne_zero h')
  have hval := hr c.1
  rw [Memory.read_cons, Memory.read_cons, if_pos rfl, if_pos hslot] at hval
  exact Prod.ext hslot hval

/-- What is listed after the first slot reads as the whole, but for that slot, which reads 0. -/
theorem Memory.read_tail {c : Nat × Entry} {m : Memory} (h : Memory.wf (c :: m) = true) (a : Nat) :
    Memory.read m a = if a = c.1 then 0#24 else Memory.read (c :: m) a := by
  obtain ⟨hab, -, -⟩ := (Memory.wf_cons c m).mp h
  split_ifs with ha
  · exact Memory.read_eq_zero_of_above hab ha.le
  · rw [Memory.read_cons, if_neg ha]

/-- Settles O20, by induction on both lists: the first entries agree, and the rest reads alike. -/
theorem equalReadingBuffersAreEqual : Obligations.EqualReadingBuffersAreEqual := by
  unfold Obligations.EqualReadingBuffersAreEqual
  intro m
  induction m with
  | nil =>
    intro m' _ h' hr
    cases m' with
    | nil => rfl
    | cons d m' => exact absurd (hr d.1).symm (Memory.read_head_ne_zero h')
  | cons c m ih =>
    intro m' h h' hr
    cases m' with
    | nil => exact absurd (hr c.1) (Memory.read_head_ne_zero h)
    | cons d m' =>
      obtain rfl := Memory.head_eq_of_read_eq h h' hr
      have hm := ((Memory.wf_cons c m).mp h).2.2
      have hm' := ((Memory.wf_cons c m').mp h').2.2
      rw [ih m' hm hm' fun a => by rw [Memory.read_tail h, Memory.read_tail h', hr]]

/-! ### Construction (R33, R140) -/

/-- The step of a construction within the bound. -/
theorem step_of_construct {s : State} {p : Straps} (hm : s.nextMove = .construct p)
    (hg : geometryOk (geomOf p).w (geomOf p).h = true) : step s = .next (s.popMove.constructed p) := by
  rw [step, hm]
  exact if_pos hg

/-- Every slot of an empty buffer holds 0. -/
theorem State.pbRead_of_empty {s : State} (h : s.pb = []) (a : Nat) :
    s.pbRead a = if a < s.geom.n then some 0 else none := by
  rw [State.pbRead, h]
  rfl

theorem State.constructed_of_match (s : State) {p : Straps} (h : p.cctRange = 0x100) :
    (s.constructed p).st = .run ∧ (s.constructed p).fault = .none ∧
      (s.constructed p).txlog = busInitEvents s.params p.cfgPin := by
  have hr := (rangeMatches_iff p).mpr h
  exact ⟨if_pos hr, if_pos hr, if_pos hr⟩

theorem State.constructed_of_mismatch (s : State) {p : Straps} (h : p.cctRange ≠ 0x100) :
    (s.constructed p).st = .halt ∧ (s.constructed p).fault = .cfgMismatch := by
  have hr : ¬ rangeMatches p = true := fun e => h ((rangeMatches_iff p).mp e)
  exact ⟨if_neg hr, if_neg hr⟩

/-- Settles O7: each field of the constructed state, the last two clauses by the compatibility check. -/
theorem constructionLeavesTheResetValues : Obligations.ConstructionLeavesTheResetValues := by
  unfold Obligations.ConstructionLeavesTheResetValues
  intro s p hm hg
  refine ⟨_, step_of_construct hm hg, clampDim_eq _, clampDim_eq _, rfl, State.pbRead_of_empty rfl, rfl, rfl, rfl, rfl,
    rfl, fun hr => ?_, fun hr => ?_⟩
  · obtain ⟨hst, hf, hlog⟩ := s.popMove.constructed_of_match hr
    exact ⟨hst, hf, (State.cmdReady_iff _).mpr ⟨hst, rfl, hf⟩, hlog⟩
  · obtain ⟨hst, hf⟩ := s.popMove.constructed_of_mismatch hr
    refine ⟨hst, hf, Bool.eq_false_iff.mpr fun hready => ?_⟩
    have hrun := ((State.cmdReady_iff _).mp hready).1
    rw [hst] at hrun
    cases hrun

/-- Settles O6: the fields as `State.reset` writes them. -/
theorem resetStateIsTheDefaultConstruction : Obligations.ResetStateIsTheDefaultConstruction := by
  unfold Obligations.ResetStateIsTheDefaultConstruction
  exact ⟨rfl, State.pbRead_of_empty rfl 0, rfl, rfl, rfl, rfl, rfl, (State.cmdReady_iff _).mpr ⟨rfl, rfl, rfl⟩, rfl⟩

/-! ### What a turn of the block may write -/

/-- A step of a SEND in progress (R100): its frame; the mask falls at the end of `POST_TX` only; the flag falls only where a token
goes out. -/
structure SendStep (s t : State) : Prop where
  busy  : s.seq.phase ≠ .idle
  frame : t = { s with bcs := { s.bcs with ctas := t.bcs.ctas }, irqMask := t.irqMask, seq := t.seq
                       txReady := t.txReady, txlog := t.txlog }
  mask  : t.irqMask = s.irqMask ∨ (s.seq.phase = .postTx ∧ t.irqMask = false ∧ t.seq.phase = .idle)
  flag  : t.txReady = s.txReady ∨ (t.txReady = false ∧ ∃ k, tokensOf t.txlog = tokensOf s.txlog ++ [k])

/-- The four kinds of turn of the block, by what they may write. -/
inductive BlockTurn (s t : State) : Prop where
  | nothing (same : t = s)
  | buffer (ready : s.cmdReady = true) (w : CmdWord) (port : s.port = some w) (op : opField w ≠ 3#2)
      (frame : t = { s with pb := t.pb, fault := t.fault, port := none })
  | accept (ready : s.cmdReady = true) (w : CmdWord) (port : s.port = some w) (op : opField w = 3#2)
      (sends : t = { s.clearPort.setIrqMask true with seq := { s.seq with phase := .preSel } })
  | send (sends : SendStep s t)

theorem tokensOf_append (l l' : List Event) : tokensOf (l ++ l') = tokensOf l ++ tokensOf l' :=
  List.filterMap_append

/-- Every turn of the block is of one of the four kinds. -/
theorem blockTurn_of_blockStep {s t : State} (h : blockStep s = .next t) : BlockTurn s t := by
  rcases blockStep_spec h with
    ⟨-, same⟩ | ⟨ready, w, port, hc⟩ | ⟨-, hp, rfl⟩ | ⟨-, hp, -, rfl⟩ | ⟨-, -, -, -, same⟩ | ⟨-, -, hp, rfl⟩ |
    ⟨-, -, hp, rfl⟩ | ⟨-, -, hp, -, rfl⟩
  · exact .nothing same
  · rcases hc with ⟨ho, rfl⟩ | ⟨ho, rfl⟩ | ⟨ho, rfl, -⟩ | ⟨ho, -, rfl⟩ | ⟨ho, sends⟩
    · exact .buffer ready w port (by rw [ho]; decide) rfl
    · exact .buffer ready w port (by rw [ho]; decide) (State.setLinear_frame _ _ _)
    · exact .buffer ready w port (by rw [ho]; decide) rfl
    · exact .buffer ready w port (by rw [ho]; decide) (State.setLinear_frame _ _ _)
    · exact .accept ready w port ho sends
  · exact .send ⟨hp.elim (·.trans_ne (by decide)) (·.trans_ne (by decide)), rfl, .inl rfl, .inl rfl⟩
  · exact .send ⟨hp.elim (·.trans_ne (by decide)) (·.trans_ne (by decide)), rfl, .inl rfl, .inl rfl⟩
  · exact .nothing same
  · exact .send ⟨hp.trans_ne (by decide), rfl, .inl rfl, .inr ⟨rfl, _, tokensOf_append _ _⟩⟩
  · refine .send ⟨hp.trans_ne (by decide), rfl, .inr ⟨hp, rfl, rfl⟩, .inr ⟨rfl, ⟨.reset, s.params.bus.resetWord⟩, ?_⟩⟩
    simp [tokensOf]
  · exact .send ⟨hp.trans_ne (by decide), rfl, .inl rfl, .inr ⟨rfl, _, tokensOf_append _ _⟩⟩

/-- What the turn of the block leaves alone (R152). -/
theorem blockStep_frame {s t : State} (h : blockStep s = .next t) :
    t.params = s.params ∧ t.geom = s.geom ∧ t.st = s.st ∧ t.bcs.eoq = s.bcs.eoq ∧ t.bcs.cont = s.bcs.cont := by
  cases blockTurn_of_blockStep h with
  | nothing same => rw [same]; exact ⟨rfl, rfl, rfl, rfl, rfl⟩
  | buffer _ _ _ _ frame => rw [frame]; exact ⟨rfl, rfl, rfl, rfl, rfl⟩
  | accept _ _ _ _ sends => rw [sends]; exact ⟨rfl, rfl, rfl, rfl, rfl⟩
  | send sends => rw [sends.frame]; exact ⟨rfl, rfl, rfl, rfl, rfl⟩

/-- Settles O36: the moves of the other agents write one field each, and the turn of the block has its frame. -/
theorem onlyConstructionWritesTheGeometry : Obligations.OnlyConstructionWritesTheGeometry := by
  unfold Obligations.OnlyConstructionWritesTheGeometry
  intro s t h
  rcases step_cases h with ⟨p, hm, -, rfl⟩ | ⟨-, ⟨-, rfl⟩ | ⟨w, -, rfl⟩ | ⟨-, rfl⟩ | ⟨-, hb⟩⟩
  · exact ⟨rfl, fun hc => by rw [hm] at hc; cases hc⟩
  · exact ⟨rfl, fun _ => ⟨rfl, rfl, rfl, rfl⟩⟩
  · exact ⟨rfl, fun _ => ⟨rfl, rfl, rfl, rfl⟩⟩
  · exact ⟨rfl, fun _ => ⟨rfl, rfl, rfl, rfl⟩⟩
  · obtain ⟨hparams, rest⟩ := blockStep_frame hb
    exact ⟨hparams, fun _ => rest⟩

/-- Settles O37: of the turns of the block, only the accepting one and the last of a SEND write the mask. -/
theorem onlySendWritesTheMask : Obligations.OnlySendWritesTheMask := by
  unfold Obligations.OnlySendWritesTheMask
  intro s t h hne
  rcases step_cases h with ⟨p, hm, -, rfl⟩ | ⟨-, ⟨-, rfl⟩ | ⟨w, -, rfl⟩ | ⟨-, rfl⟩ | ⟨hm, hb⟩⟩
  · exact .inl ⟨by rw [hm]; rfl, rfl⟩
  · exact absurd rfl hne
  · exact absurd rfl hne
  · exact absurd rfl hne
  · cases blockTurn_of_blockStep hb with
    | nothing same => exact absurd (by rw [same]; rfl) hne
    | buffer _ _ _ _ frame => exact absurd (by rw [frame]; rfl) hne
    | accept ready w port op sends => exact .inr (.inl ⟨hm, ready, by rw [sends]; rfl, by rw [sends], w, port, op⟩)
    | send sends =>
      rcases sends.mask with same | ⟨hp, hmask, hidle⟩
      · exact absurd same hne
      · exact .inr (.inr ⟨hm, hp, hmask, hidle⟩)

/-- Settles O38: of the turns of the block, only a command other than SEND writes the buffer. -/
theorem onlyBufferCommandsWriteTheBuffer : Obligations.OnlyBufferCommandsWriteTheBuffer := by
  unfold Obligations.OnlyBufferCommandsWriteTheBuffer
  intro s t h hne
  rcases step_cases h with ⟨p, hm, -, rfl⟩ | ⟨-, ⟨-, rfl⟩ | ⟨w, -, rfl⟩ | ⟨-, rfl⟩ | ⟨hm, hb⟩⟩
  · exact .inl (by rw [hm]; rfl)
  · exact absurd rfl hne
  · exact absurd rfl hne
  · exact absurd rfl hne
  · cases blockTurn_of_blockStep hb with
    | nothing same => exact absurd (by rw [same]; rfl) hne
    | buffer ready w port op _ => exact .inr ⟨hm, ready, ((State.cmdReady_iff _).mp ready).2.1, w, port, op⟩
    | accept _ _ _ _ sends => exact absurd (by rw [sends]; rfl) hne
    | send sends => exact absurd (by rw [sends.frame]; rfl) hne

/-- A turn of the block leaves the flag, or clears it in a SEND with one token more (R104). -/
theorem blockStep_txReady {s t : State} (h : blockStep s = .next t) :
    t.txReady = s.txReady ∨
    (t.txReady = false ∧ s.seq.phase ≠ .idle ∧ (tokensOf t.txlog).length = (tokensOf s.txlog).length + 1) := by
  cases blockTurn_of_blockStep h with
  | nothing same => exact .inl (by rw [same])
  | buffer _ _ _ _ frame => exact .inl (by rw [frame])
  | accept _ _ _ _ sends => exact .inl (by rw [sends]; rfl)
  | send sends =>
    rcases sends.flag with same | ⟨hlow, k, hk⟩
    · exact .inl same
    · exact .inr ⟨hlow, sends.busy, by rw [hk, List.length_append]; rfl⟩

/-- A step leaves the flag, or is the transmitter's and raises it, or is the block's and clears it with one token more. -/
theorem step_txReady {s t : State} (h : step s = .next t) :
    t.txReady = s.txReady ∨ (s.nextMove = .transmitterReady ∧ t.txReady = true) ∨
    (s.nextMove = .block ∧ t.txReady = false ∧ s.seq.phase ≠ .idle ∧
      (tokensOf t.txlog).length = (tokensOf s.txlog).length + 1) := by
  rcases step_cases h with ⟨p, -, -, rfl⟩ | ⟨-, ⟨hm, rfl⟩ | ⟨w, -, rfl⟩ | ⟨-, rfl⟩ | ⟨hm, hb⟩⟩
  · exact .inl rfl
  · exact .inr (.inl ⟨hm, rfl⟩)
  · exact .inl rfl
  · exact .inl rfl
  · rcases blockStep_txReady hb with same | cleared
    · exact .inl same
    · exact .inr (.inr ⟨hm, cleared⟩)

/-- Settles O39: the three ways a step can treat the flag. -/
theorem readyFlagIsRaisedByTheTransmitterAndClearedByTxword :
    Obligations.ReadyFlagIsRaisedByTheTransmitterAndClearedByTxword := by
  unfold Obligations.ReadyFlagIsRaisedByTheTransmitterAndClearedByTxword
  intro s t h
  rcases step_txReady h with same | ⟨hm, high⟩ | ⟨hm, low, sends⟩
  · exact ⟨fun h0 h1 => by simp [same, h0] at h1, fun h1 h0 => by simp [same, h1] at h0⟩
  · exact ⟨fun _ _ => hm, fun _ h0 => by simp [high] at h0⟩
  · exact ⟨fun _ h1 => by simp [low] at h1, fun _ _ => ⟨hm, sends⟩⟩

/-! ### The flags without a value (R23): each operation does the same beside other values in them -/

section Unvalued
variable (cont eoq : Bool) (s : State)

theorem pbWrite_withUnvalued (a : Nat) (v : Entry) :
    (withUnvalued cont eoq s).pbWrite a v = withUnvalued cont eoq (s.pbWrite a v) := by
  rcases s.pbWrite_cases a v with ⟨ha, e⟩ | ⟨ha, e⟩ <;> rw [e]
  · exact if_pos ha
  · exact if_neg ha.not_gt

theorem setLinear_withUnvalued (i : Int) (rgb : Rgb) :
    (withUnvalued cont eoq s).setLinear i rgb = withUnvalued cont eoq (s.setLinear i rgb) := by
  unfold State.setLinear
  rw [apply_ite (withUnvalued cont eoq), ← pbWrite_withUnvalued]
  rfl

theorem txBit_withUnvalued (d : Bool) :
    (withUnvalued cont eoq s).txBit d = withUnvalued cont eoq (s.txBit d) := by
  rcases s.txWord_cases (sym s.params.bus d) with ⟨hr, e⟩ | ⟨hr, e⟩ <;> rw [State.txBit, State.txBit, e]
  · exact State.txWord_wait (s := withUnvalued cont eoq s) hr _
  · exact State.txWord_ready (s := withUnvalued cont eoq s) hr _

theorem txReset_withUnvalued : (withUnvalued cont eoq s).txReset = withUnvalued cont eoq s.txReset := by
  rcases s.txReset_cases with ⟨hr, e⟩ | ⟨hr, e⟩ <;> rw [e]
  · exact State.txReset_wait hr
  · exact State.txReset_ready hr

theorem exec_withUnvalued (i : Instr) :
    exec i (withUnvalued cont eoq s) = onNext (withUnvalued cont eoq) (exec i s) := by
  cases i with
  | clear => rfl
  | set index rgb => exact congrArg Host.Outcome.next (setLinear_withUnvalued cont eoq s index rgb)
  | setxy x y rgb =>
    refine congrArg Host.Outcome.next ?_
    rw [apply_ite (withUnvalued cont eoq), ← setLinear_withUnvalued]
    rfl
  | send => rfl
  | tokenRst => exact congrArg Host.Outcome.next (txReset_withUnvalued cont eoq s)
  | tokenT0 => exact congrArg Host.Outcome.next (txBit_withUnvalued cont eoq s false)
  | tokenT1 => exact congrArg Host.Outcome.next (txBit_withUnvalued cont eoq s true)

theorem advance_withUnvalued (after : State) :
    (withUnvalued cont eoq s).advance (withUnvalued cont eoq after) = withUnvalued cont eoq (s.advance after) := by
  cases hr : s.txReady with
  | false => rw [State.advance_wait hr]; exact State.advance_wait hr _
  | true =>
    cases hp : s.seq.phase with
    | idle | preSel | postSel => simp [State.advance, withUnvalued, hr, hp]
    | preTx => rw [State.advance_preTx hr hp]; exact State.advance_preTx hr hp _
    | dataTx => rw [State.advance_dataTx hr hp]; exact State.advance_dataTx hr hp _
    | postTx => rw [State.advance_postTx hr hp]; exact State.advance_postTx hr hp _

theorem fetch_withUnvalued : (withUnvalued cont eoq s).fetch = s.fetch := rfl

theorem blockStep_withUnvalued :
    blockStep (withUnvalued cont eoq s) = onNext (withUnvalued cont eoq) (blockStep s) := by
  unfold blockStep
  rw [fetch_withUnvalued]
  cases s.fetch with
  | nothing => rfl
  | command i => exact exec_withUnvalued cont eoq s.clearPort i
  | select => rfl
  | token i =>
    simp only [exec_withUnvalued]
    cases exec i s with
    | next after => exact congrArg Host.Outcome.next (advance_withUnvalued cont eoq s after)
    | fault r => rfl
    | refused r => rfl
  | missing a => rfl

theorem unlessOobWrite_withUnvalued (o : Host.Outcome State Fault Refusal) :
    unlessOobWrite (withUnvalued cont eoq s) (onNext (withUnvalued cont eoq) o) =
      onNext (withUnvalued cont eoq) (unlessOobWrite s o) := by
  have hf : (withUnvalued cont eoq s).fault = s.fault := rfl
  unfold unlessOobWrite
  rw [hf]
  cases s.fault <;> rfl

theorem runMove_withUnvalued {m : Move} (hm : m.isConstruct = false) :
    runMove m (withUnvalued cont eoq s) = onNext (withUnvalued cont eoq) (runMove m s) := by
  cases m with
  | block =>
    show unlessOobWrite _ (blockStep _) = _
    rw [blockStep_withUnvalued]
    exact unlessOobWrite_withUnvalued cont eoq s _
  | transmitterReady => exact unlessOobWrite_withUnvalued cont eoq s (.next s.raiseTxReady)
  | present w => exact unlessOobWrite_withUnvalued cont eoq s (.next (s.presentCommand w))
  | withdraw => exact unlessOobWrite_withUnvalued cont eoq s (.next s.clearPort)
  | construct p => cases hm

end Unvalued

/-- Settles O42: every move but a construction does the same beside other values, and a construction discards them. -/
theorem unvaluedFlagsNeverMatter : Obligations.UnvaluedFlagsNeverMatter := by
  unfold Obligations.UnvaluedFlagsNeverMatter
  intro s cont eoq
  refine ⟨fun hm => runMove_withUnvalued cont eoq s.popMove hm, fun hm => ?_⟩
  show runMove s.nextMove _ = runMove s.nextMove _
  cases hn : s.nextMove with
  | construct p => rfl
  | block | transmitterReady | present w | withdraw => rw [hn] at hm; cases hm

/-! ### The invariant (R34), operation by operation -/

/-- The invariant does not speak of the flag, the logs, the port and the moves to come. -/
theorem State.Inv.others {s : State} (h : s.Inv) (flag : Bool) (log : List Event) (past : List (List Event))
    (port : Option CmdWord) (moves : List Move) :
    State.Inv { s with txReady := flag, txlog := log, pastLogs := past, port := port, moves := moves } :=
  ⟨h.params, h.geom, h.pbForm, h.pbSlots, h.pbImage, h.mask, h.profile, h.pix, h.busy, h.halted⟩

theorem State.Inv.clearPort {s : State} (h : s.Inv) : s.clearPort.Inv := h.others _ _ _ _ _

theorem State.Inv.popMove {s : State} (h : s.Inv) : s.popMove.Inv := h.others _ _ _ _ _

/-- Construction within the bound and with legal parameters starts the invariant. -/
theorem State.constructed_inv {s : State} {p : Straps} (hp : s.params.bus.wellFormed = true)
    (hg : geometryOk (geomOf p).w (geomOf p).h = true) : (s.constructed p).Inv where
  params  := hp
  geom    := hg
  pbForm  := rfl
  pbSlots := rfl
  pbImage := fun _ => .inl rfl
  mask    := rfl
  profile := rfl
  pix     := fun hd => by cases hd
  busy    := fun hb => absurd rfl hb
  halted  := by cases hr : rangeMatches p <;> simp [State.constructed, hr]

theorem State.Inv.pbClear {s : State} (h : s.Inv) : s.pbClear.Inv :=
  ⟨h.params, h.geom, rfl, rfl, fun _ => .inl rfl, h.mask, h.profile, h.pix, h.busy, h.halted⟩

/-- Storing a value of the table's image at a slot of the buffer keeps the invariant. -/
theorem State.Inv.store {s : State} (h : s.Inv) {a : Nat} {v : Entry} (ha : a < s.geom.n)
    (hv : inCctImage s.params.cct v) : State.Inv { s with pb := Memory.write s.pb a v } where
  params  := h.params
  geom    := h.geom
  pbForm  := Memory.wf_write a v h.pbForm
  pbSlots := Memory.within_write v h.pbSlots ha
  pbImage := fun b => by
    show Memory.read (Memory.write s.pb a v) b = 0 ∨ inCctImage s.params.cct (Memory.read (Memory.write s.pb a v) b)
    rw [Memory.read_write h.pbForm]
    split_ifs
    · exact .inr hv
    · exact h.pbImage b
  mask    := h.mask
  profile := h.profile
  pix     := h.pix
  busy    := h.busy
  halted  := h.halted

/-- Recording `OobWrite` in an idle running block keeps the invariant. -/
theorem State.Inv.oobWrite {s : State} (h : s.Inv) (hrun : s.st = .run) (hidle : s.seq.phase = .idle) (a : Nat)
    (v : Entry) : State.Inv { s with fault := .oobWrite a v } :=
  ⟨h.params, h.geom, h.pbForm, h.pbSlots, h.pbImage, h.mask, h.profile, h.pix, fun hb => absurd hidle hb,
    by simp [hrun]⟩

theorem State.Inv.setLinear {s : State} (h : s.Inv) (hready : s.cmdReady = true) (i : Int) (rgb : Rgb) :
    (s.setLinear i rgb).Inv := by
  obtain ⟨hrun, hidle, -⟩ := s.cmdReady_iff.mp hready
  rcases s.setLinear_slots i rgb with ⟨-, e⟩ | ⟨-, -, ha, e⟩ | ⟨-, e⟩ <;> rw [e]
  · exact h
  · exact h.store ha ⟨_, _, _, rfl⟩
  · exact h.oobWrite hrun hidle _ _

/-- The sequencer of a running block without a fault may go to any position, if mask and profile go with the phase. -/
theorem State.Inv.goto {s t : State} (h : s.Inv) (hlive : s.st = .run ∧ s.fault = .none)
    (frame : t = { s with bcs := t.bcs, irqMask := t.irqMask, seq := t.seq, txReady := t.txReady
                          txlog := t.txlog, port := t.port })
    (mask : t.irqMask = decide (t.seq.phase ≠ .idle)) (profile : t.bcs.ctas = t.seq.phase.profile)
    (pix : t.seq.phase = .dataTx → t.seq.pix < s.geom.n) : t.Inv := by
  rw [frame]
  exact ⟨h.params, h.geom, h.pbForm, h.pbSlots, h.pbImage, mask, profile, pix, fun _ => hlive, h.halted⟩

/-- In any phase but `IDLE` the mask is 1. -/
theorem State.Inv.mask_of_busy {s : State} (h : s.Inv) (hbusy : s.seq.phase ≠ .idle) : s.irqMask = true :=
  h.mask.trans (decide_eq_true hbusy)

/-- The buffer has a slot (R21). -/
theorem State.Inv.n_pos {s : State} (h : s.Inv) : 0 < s.geom.n := by
  obtain ⟨hw, hh, -⟩ := (geometryOk_iff _ _).mp h.geom
  exact Nat.mul_pos hw hh

/-- The first step of a SEND keeps the invariant: the mask rises with the phase. -/
theorem State.Inv.accept {s : State} (h : s.Inv) (hready : s.cmdReady = true) :
    State.Inv { s.clearPort.setIrqMask true with seq := { s.seq with phase := .preSel } } := by
  obtain ⟨hrun, hidle, hfault⟩ := s.cmdReady_iff.mp hready
  exact h.goto ⟨hrun, hfault⟩ rfl rfl (h.profile.trans (by rw [hidle]; rfl)) (fun hd => by cases hd)

/-- Selecting the reset profile and going on to the pulse keeps the invariant. -/
theorem State.Inv.selectReset {s : State} (h : s.Inv) (hp : s.seq.phase = .preSel ∨ s.seq.phase = .postSel) :
    s.selectReset.Inv := by
  have hbusy : s.seq.phase ≠ .idle := hp.elim (·.trans_ne (by decide)) (·.trans_ne (by decide))
  have hmask := h.mask_of_busy hbusy
  rcases hp with hp | hp
  · refine h.goto (h.busy hbusy) rfl ?_ ?_ ?_ <;> simp [hp, hmask, Phase.profile]
  · refine h.goto (h.busy hbusy) rfl ?_ ?_ ?_ <;> simp [hp, hmask, Phase.profile]

/-- Waiting in a reset pulse keeps the invariant: the profile stands at `RESET` already. -/
theorem State.Inv.waitReset {s : State} (h : s.Inv) (hp : s.seq.phase = .preTx ∨ s.seq.phase = .postTx) :
    (s.selectProfile .reset).Inv := by
  have hbusy : s.seq.phase ≠ .idle := hp.elim (·.trans_ne (by decide)) (·.trans_ne (by decide))
  have hprofile : Profile.reset = s.seq.phase.profile := by rcases hp with hp | hp <;> rw [hp] <;> rfl
  exact h.goto (h.busy hbusy) rfl h.mask hprofile h.pix

/-- Handing over a bit keeps the invariant: the next position is inside the buffer, or the data is over. -/
theorem State.Inv.emitBit {s : State} (h : s.Inv) (hp : s.seq.phase = .dataTx) (w : BusWord) :
    State.Inv { s.emit w with seq := nextDataSeq s.geom.n s.seq } := by
  have hbusy : s.seq.phase ≠ .idle := hp.trans_ne (by decide)
  have hmask := h.mask_of_busy hbusy
  have hprofile : s.bcs.ctas = .data := h.profile.trans (by rw [hp]; rfl)
  rcases nextDataSeq_spec hp (h.pix hp) with ⟨hq, hx, -⟩ | ⟨hq, -⟩
  · exact h.goto (h.busy hbusy) rfl (by simp [hq, hmask]) (by simp [hq, hprofile, Phase.profile]) fun _ => hx
  · exact h.goto (h.busy hbusy) rfl (by simp [hq, hmask]) (by simp [hq, hprofile, Phase.profile])
      fun hd => by simp [hq] at hd

/-- Every turn of the block keeps the invariant. -/
theorem blockStep_inv {s t : State} (h : s.Inv) (hb : blockStep s = .next t) : t.Inv := by
  rcases blockStep_spec hb with
    ⟨-, rfl⟩ | ⟨hready, w, -, hc⟩ | ⟨-, hp, rfl⟩ | ⟨-, hp, -, rfl⟩ | ⟨-, -, -, -, rfl⟩ | ⟨-, -, hp, rfl⟩ |
    ⟨-, -, hp, rfl⟩ | ⟨-, -, hp, -, rfl⟩
  · exact h
  · rcases hc with ⟨-, rfl⟩ | ⟨-, rfl⟩ | ⟨-, rfl, -⟩ | ⟨-, -, rfl⟩ | ⟨-, rfl⟩
    · exact h.clearPort.pbClear
    · exact h.clearPort.setLinear hready _ _
    · exact h.clearPort
    · exact h.clearPort.setLinear hready _ _
    · exact h.accept hready
  · exact h.selectReset hp
  · exact h.waitReset hp
  · exact h
  · have hbusy : s.seq.phase ≠ .idle := hp.trans_ne (by decide)
    exact h.goto (h.busy hbusy) rfl (h.mask_of_busy hbusy) rfl fun _ => h.n_pos
  · have hbusy : s.seq.phase ≠ .idle := hp.trans_ne (by decide)
    exact h.goto (h.busy hbusy) rfl rfl rfl fun hd => by cases hd
  · exact h.emitBit hp _

/-- Settles O33: a construction starts the invariant anew, and every other move keeps it. -/
theorem everyStepKeepsTheInvariant : Obligations.EveryStepKeepsTheInvariant := by
  unfold Obligations.EveryStepKeepsTheInvariant
  intro s t h hs
  rcases step_cases hs with ⟨p, -, hg, rfl⟩ | ⟨-, ⟨-, rfl⟩ | ⟨w, -, rfl⟩ | ⟨-, rfl⟩ | ⟨-, hb⟩⟩
  · exact State.constructed_inv h.params hg
  · exact h.others _ _ _ _ _
  · exact h.others _ _ _ _ _
  · exact h.others _ _ _ _ _
  · exact blockStep_inv h.popMove hb

/-! ### The state after reset -/

/-- The patterns in the parameters at reset differ, whatever the open parameters are (R7, R109). -/
theorem pat1_ne_pat0 : Config.pat1 ≠ Config.pat0 := by
  unfold Config.pat1
  split_ifs with h
  · exact BitVec.not_self_ne (Nat.lt_of_lt_of_le two_pos (Nat.le_add_right 2 _))
  · exact h

theorem params_wellFormed : Config.params.bus.wellFormed = true := by
  have hwidth : 2 ≤ Config.wordBits := Nat.le_add_right 2 _
  simp [BusParams.wellFormed, Config.params, hwidth, pat1_ne_pat0]

/-- The state after reset is a constructed one, so it keeps the invariant. -/
theorem reset_inv : State.reset.Inv := by
  have hg : geometryOk (geomOf Config.defaultStraps).w (geomOf Config.defaultStraps).h = true := by decide
  have hc := State.constructed_inv (s := State.reset) (p := Config.defaultStraps) params_wellFormed hg
  rw [reset_eq_constructed]
  exact hc.others _ _ _ _ _

/-- Settles O32: the invariant by `reset_inv`; the log holds the events of BUSINIT only, no token and no mask event. -/
theorem resetMeetsTheInvariant : Obligations.ResetMeetsTheInvariant := by
  unfold Obligations.ResetMeetsTheInvariant
  exact ⟨reset_inv, rfl, rfl⟩

end Sys2Proof.Machine
end

section
/-!
PROOFS of the statements on 30_encoding.md. The command word and the tokens are read back field by field; what a turn of the block
puts into the log and does with the flag is said once, against the transmitter's port.
-/

namespace Sys2Proof.Machine
open Sys2Proof.Claims

/-! ### The command word (R61, R62) -/

/-- What a packed command word decodes to, by its opcode; fields the command does not name have no influence. -/
theorem decodeCommand_packCommand (op : BitVec 2) (a b : IntWord) (rgb : Rgb) :
    decodeCommand (packCommand op a b rgb) =
      if op = 0 then .clear
      else if op = 1 then .set a.toInt rgb
      else if op = 2 then .setxy a.toInt b.toInt rgb
      else .send := by
  rcases decodeCommand_cases (packCommand op a b rgb) with ⟨ho, hd⟩ | ⟨ho, hd⟩ | ⟨ho, hd⟩ | ⟨ho, hd⟩ <;>
    rw [opField_packCommand] at ho <;> rw [hd, ho] <;> simp

/-- Settles O3: a word of that value is the packed word of the four fields. -/
theorem commandFieldsStandWhereTheFormatSays : Obligations.CommandFieldsStandWhereTheFormatSays := by
  unfold Obligations.CommandFieldsStandWhereTheFormatSays
  intro op a b rgb w hw
  have hpack : w = packCommand op a b rgb := BitVec.eq_of_toNat_eq (hw.trans (toNat_packCommand op a b rgb).symm)
  rw [hpack, decodeCommand_packCommand]

/-- The rows' mask keeps the opcode and nothing else. -/
theorem and_opMask (w : CmdWord) : w &&& 0x30000000000000000000000 = packCommand (opField w) 0 0 0 := by
  have hmask : (0x30000000000000000000000 : CmdWord) = BitVec.allOnes 90 <<< 88 := by decide
  apply BitVec.eq_of_toNat_eq
  rw [hmask, ← BitVec.shiftLeft_ushiftRight, toNat_packCommand, toNat_opField]
  have hw := w.isLt
  simp only [BitVec.toNat_shiftLeft, BitVec.toNat_ushiftRight, Nat.shiftLeft_eq, Nat.shiftRight_eq_div_pow,
    BitVec.ofNat_eq_ofNat, BitVec.toNat_ofNat]
  omega

/-- A row's match, met under the mask, says the opcode. -/
theorem and_opMask_eq_iff (w : CmdWord) (op : BitVec 2) :
    w &&& 0x30000000000000000000000 = packCommand op 0 0 0 ↔ opField w = op := by
  rw [and_opMask]
  constructor
  · intro h
    simpa using congrArg opField h
  · rintro rfl
    rfl

/-- Each opcode stands for one row, and no other opcode for that row. -/
theorem opField_iff_decodeCommand (w : CmdWord) :
    (opField w = 0 ↔ decodeCommand w = .clear) ∧
    (opField w = 1 ↔ decodeCommand w = .set (aField w).toInt (rgbField w)) ∧
    (opField w = 2 ↔ decodeCommand w = .setxy (aField w).toInt (bField w).toInt (rgbField w)) ∧
    (opField w = 3 ↔ decodeCommand w = .send) := by
  rcases decodeCommand_cases w with ⟨ho, hd⟩ | ⟨ho, hd⟩ | ⟨ho, hd⟩ | ⟨ho, hd⟩ <;> simp [ho, hd]

/-- A decoded word is one of the four commands, and its operands fit their fields. -/
theorem decodeCommand_legal (w : CmdWord) :
    (decodeCommand w).isCommand = true ∧ (decodeCommand w).wellFormed = true := by
  rcases decodeCommand_cases w with ⟨-, hd⟩ | ⟨-, hd⟩ | ⟨-, hd⟩ | ⟨-, hd⟩ <;> rw [hd]
  · exact ⟨rfl, rfl⟩
  · exact ⟨rfl, fitsInt_toInt _⟩
  · exact ⟨rfl, by simp [Instr.wellFormed, fitsInt_toInt]⟩
  · exact ⟨rfl, rfl⟩

/-- Settles O2: each match is the packed opcode, and the opcode says which row is decoded. -/
theorem everyWordMatchesTheRowItDecodesTo : Obligations.EveryWordMatchesTheRowItDecodesTo := by
  unfold Obligations.EveryWordMatchesTheRowItDecodesTo
  intro w
  obtain ⟨hclear, hset, hsetxy, hsend⟩ := opField_iff_decodeCommand w
  exact ⟨(and_opMask_eq_iff w 0).trans hclear, (and_opMask_eq_iff w 1).trans hset, (and_opMask_eq_iff w 2).trans hsetxy,
    (and_opMask_eq_iff w 3).trans hsend, decodeCommand_legal w⟩

/-- Settles O1: the seven words, by evaluation of the decoder. -/
theorem printedCommandWordsDecode : Obligations.PrintedCommandWordsDecode := by
  unfold Obligations.PrintedCommandWordsDecode
  decide

/-! ### The tokens read back (R66, log 10) -/

/-- What the decoder answers for a token. -/
theorem decodeToken_cases (b : BusParams) (t : Token) :
    (t = tokenRstOf b ∧ decodeToken b t = .ok .tokenRst) ∨
    (t = tokenT0Of b ∧ decodeToken b t = .ok .tokenT0) ∨
    (t = tokenT1Of b ∧ decodeToken b t = .ok .tokenT1) ∨
    ((t ≠ tokenRstOf b ∧ t ≠ tokenT0Of b ∧ t ≠ tokenT1Of b) ∧ decodeToken b t = .error (.notAToken t)) := by
  unfold decodeToken
  split_ifs with hrst h0 h1
  · exact .inl ⟨hrst, rfl⟩
  · exact .inr (.inl ⟨h0, rfl⟩)
  · exact .inr (.inr (.inl ⟨h1, rfl⟩))
  · exact .inr (.inr (.inr ⟨⟨hrst, h0, h1⟩, rfl⟩))

/-- A data token is no reset token: the profiles differ. -/
theorem dataToken_ne_tokenRstOf (b : BusParams) (w : BusWord) : (⟨.data, w⟩ : Token) ≠ tokenRstOf b := by
  simp [tokenRstOf]

theorem tokenT1Of_ne_tokenT0Of {b : BusParams} (h : b.wellFormed = true) : tokenT1Of b ≠ tokenT0Of b :=
  fun e => word1_ne_word0 h (congrArg Token.word e)

/-- The three rows' tokens are told apart: by the profile, and by the patterns where they differ (R109). -/
theorem decodeToken_rows {b : BusParams} (h : b.wellFormed = true) :
    decodeToken b (tokenRstOf b) = .ok .tokenRst ∧ decodeToken b (tokenT0Of b) = .ok .tokenT0 ∧
      decodeToken b (tokenT1Of b) = .ok .tokenT1 := by
  have h0 : tokenT0Of b ≠ tokenRstOf b := dataToken_ne_tokenRstOf b _
  have h1 : tokenT1Of b ≠ tokenRstOf b := dataToken_ne_tokenRstOf b _
  have h10 := tokenT1Of_ne_tokenT0Of h
  simp [decodeToken, h0, h1, h10]

/-- Settles O4, row by row: a command by its fields, whose operands fit; a token by the three being different. -/
theorem decodeOfEncodeIsTheInstruction : Obligations.DecodeOfEncodeIsTheInstruction := by
  unfold Obligations.DecodeOfEncodeIsTheInstruction
  intro b i hb hi
  obtain ⟨hrst, h0, h1⟩ := decodeToken_rows hb
  cases i with
  | clear => simp [decode, encode, decodeCommand_packCommand]
  | set index rgb => simp [decode, encode, decodeCommand_packCommand, toInt_ofInt_of_fits hi]
  | setxy x y rgb =>
    obtain ⟨hx, hy⟩ := Bool.and_eq_true_iff.mp hi
    simp [decode, encode, decodeCommand_packCommand, toInt_ofInt_of_fits hx, toInt_ofInt_of_fits hy]
  | send => simp [decode, encode, decodeCommand_packCommand]
  | tokenRst => exact hrst
  | tokenT0 => exact h0
  | tokenT1 => exact h1

/-- A row that is encoded as a token has no operands, so it is well formed. -/
theorem wellFormed_of_encode_token {b : BusParams} {i : Instr} {t : Token} (h : encode b i = .token t) :
    i.wellFormed = true := by
  cases i with
  | clear | set _ _ | setxy _ _ _ | send => cases h
  | tokenRst | tokenT0 | tokenT1 => rfl

/-- A token that decodes is the encoding of what it decodes to. -/
theorem encode_of_decodeToken {b : BusParams} {t : Token} {i : Instr} (h : decodeToken b t = .ok i) :
    encode b i = .token t := by
  rcases decodeToken_cases b t with ⟨rfl, hd⟩ | ⟨rfl, hd⟩ | ⟨rfl, hd⟩ | ⟨-, hd⟩ <;> rw [hd] at h <;> cases h <;> rfl

/-- Settles O5: reading back gives the encoded row, by O4 in the one direction; and the decoder refuses in its last case only. -/
theorem onlyTheThreeTokensDecode : Obligations.OnlyTheThreeTokensDecode := by
  unfold Obligations.OnlyTheThreeTokensDecode
  intro b t hb
  refine ⟨fun i => ⟨encode_of_decodeToken, fun he => ?_⟩, ?_⟩
  · rw [← he]
    exact decodeOfEncodeIsTheInstruction b i hb (wellFormed_of_encode_token he)
  · rcases decodeToken_cases b t with ⟨rfl, hd⟩ | ⟨rfl, hd⟩ | ⟨rfl, hd⟩ | ⟨hne, hd⟩
    · simp [decode, hd]
    · simp [decode, hd]
    · simp [decode, hd]
    · exact ⟨fun _ => hne, fun _ => ⟨_, hd⟩⟩

/-! ### The frame by position (R68, R69) -/

theorem frame_length (b : BusParams) (pb : Memory) (n : Nat) : (frame b pb n).length = 2 + 24 * n := by
  simp only [frame, List.length_cons, List.length_append, dataTokens_length, List.length_nil]
  omega

/-- The token at each position of a frame is the one of the formula. -/
theorem frame_getElem? (b : BusParams) (pb : Memory) (n : Nat) {t : Nat} (h : t < 2 + 24 * n) :
    (frame b pb n)[t]? = some (frameAt b pb n t) := by
  cases t with
  | zero => rfl
  | succ k =>
    rw [frame, List.getElem?_cons_succ]
    by_cases hk : k < 24 * n
    · have inside : ¬ (k + 1 = 0 ∨ k + 1 = 24 * n + 1) := by omega
      rw [List.getElem?_append_left (by rwa [dataTokens_length]), dataTokens_getElem? b pb n hk, frameAt, if_neg inside]
      rfl
    · obtain rfl : k = 24 * n := by omega
      rw [frameAt, if_pos (.inr rfl)]
      simp

/-- Settles O27: the length, and the position formula. -/
theorem frameIsGivenByThePositionFormula : Obligations.FrameIsGivenByThePositionFormula := by
  unfold Obligations.FrameIsGivenByThePositionFormula
  exact fun b pb n => ⟨frame_length b pb n, fun _ => frame_getElem? b pb n⟩

/-! ### The command port (R60) -/

/-- A word on the port of a ready block is the command it takes. -/
theorem State.fetch_of_ready {s : State} {w : CmdWord} (hready : s.cmdReady = true) (hp : s.port = some w) :
    s.fetch = .command (decodeCommand w) := by
  obtain ⟨hrun, hidle, -⟩ := s.cmdReady_iff.mp hready
  rw [State.fetch_of_run hrun, hidle]
  simp [State.fetchCommand, hp, hready]

/-- Settles O24: the turn of a block that fetches a command. -/
theorem stepRunsThePresentedCommand : Obligations.StepRunsThePresentedCommand := by
  unfold Obligations.StepRunsThePresentedCommand
  intro s w hm hready hp
  have hfetch : s.popMove.fetch = .command (decodeCommand w) := State.fetch_of_ready hready hp
  rw [step_of_block hm (s.cmdReady_iff.mp hready).2.2, blockStep, hfetch]
  rfl

/-- A block that is not ready looks at no command, whatever stands on the port. -/
theorem State.fetchCommand_of_not_ready {s : State} (h : s.cmdReady = false) : s.fetchCommand = .nothing := by
  cases hp : s.port <;> simp [State.fetchCommand, hp, h]

/-- What the turn of a block that is not ready can hold: no command. -/
theorem State.fetch_of_not_ready {s : State} (h : s.cmdReady = false) :
    s.fetch = .nothing ∨ s.fetch = .select ∨ s.fetch = .token .tokenRst ∨
    (∃ d : Bool, s.fetch = .token (if d then .tokenT1 else .tokenT0)) ∨ ∃ a, s.fetch = .missing a := by
  cases hst : s.st with
  | halt => exact .inl (if_pos hst)
  | run =>
    rw [State.fetch_of_run hst]
    cases hp : s.seq.phase with
    | idle => exact .inl (State.fetchCommand_of_not_ready h)
    | preSel | postSel => exact .inr (.inl rfl)
    | preTx | postTx => exact .inr (.inr (.inl rfl))
    | dataTx =>
      refine .inr (.inr (.inr ?_))
      cases hv : s.pbRead s.seq.pix with
      | none => exact .inr ⟨s.seq.pix, by simp [State.fetchBit, hv]⟩
      | some v => exact .inl ⟨v.getLsbD s.seq.bit.val, by simp only [State.fetchBit, hv]; split_ifs <;> rfl⟩

/-! ### Another port (R60, R151): a block that is not ready does the same beside it -/

/-- The state with another command port. -/
def withPort (w : Option CmdWord) (s : State) : State := { s with port := w }

section Port
variable (w : Option CmdWord) (s : State)

theorem txBit_withPort (d : Bool) : (withPort w s).txBit d = withPort w (s.txBit d) := by
  rcases s.txWord_cases (sym s.params.bus d) with ⟨hr, e⟩ | ⟨hr, e⟩ <;> rw [State.txBit, State.txBit, e]
  · exact State.txWord_wait (s := withPort w s) hr _
  · exact State.txWord_ready (s := withPort w s) hr _

theorem txReset_withPort : (withPort w s).txReset = withPort w s.txReset := by
  rcases s.txReset_cases with ⟨hr, e⟩ | ⟨hr, e⟩ <;> rw [e]
  · exact State.txReset_wait hr
  · exact State.txReset_ready hr

theorem advance_withPort (after : State) :
    (withPort w s).advance (withPort w after) = withPort w (s.advance after) := by
  unfold State.advance
  rw [apply_ite (withPort w)]
  cases hp : s.seq.phase <;> simp [withPort, hp]

theorem fetch_withPort (h : s.cmdReady = false) : (withPort w s).fetch = s.fetch := by
  have same : (withPort w s).fetchCommand = s.fetchCommand :=
    (State.fetchCommand_of_not_ready (s := withPort w s) h).trans (State.fetchCommand_of_not_ready h).symm
  unfold State.fetch
  rw [same]
  rfl

theorem blockStep_withPort (h : s.cmdReady = false) :
    blockStep (withPort w s) = onNext (withPort w) (blockStep s) := by
  unfold blockStep
  rw [fetch_withPort w s h]
  rcases State.fetch_of_not_ready h with hf | hf | hf | ⟨d, hf⟩ | ⟨a, hf⟩ <;> rw [hf]
  · rfl
  · rfl
  · show Host.Outcome.next ((withPort w s).advance (withPort w s).txReset) = _
    rw [txReset_withPort, advance_withPort]
    rfl
  · simp only [exec_dataBit, onNext, txBit_withPort, advance_withPort]
  · rfl

end Port

/-- Settles O40: the turn of a block that is not ready commutes with a change of the port. -/
theorem noCommandIsTakenWhileNotReady : Obligations.NoCommandIsTakenWhileNotReady := by
  unfold Obligations.NoCommandIsTakenWhileNotReady
  intro s w hready hm
  have turn : step (withPort w s) = unlessOobWrite s (onNext (withPort w) (blockStep s.popMove)) :=
    (congrArg (runMove · _) hm).trans (congrArg (unlessOobWrite s) (blockStep_withPort w s.popMove hready))
  have same : step s = unlessOobWrite s (blockStep s.popMove) := congrArg (runMove · _) hm
  show step (withPort w s) = onNext (withPort w) (step s)
  rw [turn, same]
  cases hf : s.fault <;> simp only [unlessOobWrite, hf, onNext]

/-! ### The token port (R66, R73) -/

/-- A turn that fetches nothing is one of a halted block, or of one with no word to hand over. -/
theorem State.pendingWord_of_fetch_nothing {s : State} (h : s.fetch = .nothing) :
    s.st = .halt ∨ s.pendingWord = none := by
  cases hst : s.st with
  | halt => exact .inl rfl
  | run =>
    rw [State.fetch_of_run hst] at h
    cases hp : s.seq.phase with
    | idle | preSel | postSel => exact .inr (by simp [State.pendingWord, hp])
    | preTx | postTx => simp [hp] at h
    | dataTx =>
      cases hv : s.pbRead s.seq.pix with
      | none => exact .inr (by simp [State.pendingWord, hp, hv])
      | some v => simp [hp, State.fetchBit, hv] at h; split_ifs at h

/-- What a turn of the block does with the pending word (R104): it hands over none, or that one under the selected profile. -/
inductive Handover (s t : State) : Prop where
  | none (waits : s.st = .halt ∨ s.txReady = false ∨ s.pendingWord = none)
      (tokens : tokensOf t.txlog = tokensOf s.txlog) (flag : t.txReady = s.txReady)
  | token (run : s.st = .run) (ready : s.txReady = true) (w : BusWord) (pending : s.pendingWord = some w)
      (tokens : tokensOf t.txlog = tokensOf s.txlog ++ [⟨s.bcs.ctas, w⟩]) (flag : t.txReady = false)

/-- Every turn of the block hands over the pending word where it can, and no other. -/
theorem handover_of_blockStep {s t : State} (h : s.Inv) (hb : blockStep s = .next t) : Handover s t := by
  have reset (hp : s.seq.phase = .preTx ∨ s.seq.phase = .postTx) :
      s.pendingWord = some s.params.bus.resetWord ∧ s.bcs.ctas = .reset := by
    rcases hp with hp | hp <;> exact ⟨by rw [State.pendingWord, hp], h.profile.trans (by rw [hp]; rfl)⟩
  rcases blockStep_spec hb with
    ⟨hf, rfl⟩ | ⟨hready, w, -, hc⟩ | ⟨-, hp, rfl⟩ | ⟨-, hp, hr, rfl⟩ | ⟨-, -, hr, -, rfl⟩ | ⟨hst, hr, hp, rfl⟩ |
    ⟨hst, hr, hp, rfl⟩ | ⟨hst, hr, hp, hx, rfl⟩
  · exact .none ((State.pendingWord_of_fetch_nothing hf).imp_right .inr) rfl rfl
  · have hidle : s.pendingWord = none := by rw [State.pendingWord, (s.cmdReady_iff.mp hready).2.1]
    rcases hc with ⟨-, rfl⟩ | ⟨-, rfl⟩ | ⟨-, rfl, -⟩ | ⟨-, -, rfl⟩ | ⟨-, rfl⟩
    · exact .none (.inr (.inr hidle)) rfl rfl
    · exact .none (.inr (.inr hidle)) (by rw [State.setLinear_frame]; rfl) (by rw [State.setLinear_frame]; rfl)
    · exact .none (.inr (.inr hidle)) rfl rfl
    · exact .none (.inr (.inr hidle)) (by rw [State.setLinear_frame]; rfl) (by rw [State.setLinear_frame]; rfl)
    · exact .none (.inr (.inr hidle)) (by simp [tokensOf]) rfl
  · exact .none (.inr (.inr (by rcases hp with hp | hp <;> rw [State.pendingWord, hp]))) rfl rfl
  · exact .none (.inr (.inl hr)) rfl rfl
  · exact .none (.inr (.inl hr)) rfl rfl
  · obtain ⟨hw, hprofile⟩ := reset (.inl hp)
    exact .token hst hr _ hw (by rw [hprofile]; exact tokensOf_append _ _) rfl
  · obtain ⟨hw, hprofile⟩ := reset (.inr hp)
    exact .token hst hr _ hw (by rw [hprofile]; simp [tokensOf]) rfl
  · have hw : s.pendingWord = some (sym s.params.bus ((Memory.read s.pb s.seq.pix).getLsbD s.seq.bit.val)) := by
      simp [State.pendingWord, hp, State.pbRead_of_lt hx]
    exact .token hst hr _ hw (tokensOf_append _ _) rfl

/-- What a step logs and does with the flag, by the port: the token on it, or none. A construction starts a new log. -/
theorem step_txPort {s t : State} (h : s.Inv) (hs : step s = .next t) :
    (s.txPort = none ∧ (s.nextMove.isConstruct = false → tokensOf t.txlog = tokensOf s.txlog) ∧
      (s.nextMove ≠ .transmitterReady → t.txReady = s.txReady)) ∨
    ∃ k, s.txPort = some k ∧ tokensOf t.txlog = tokensOf s.txlog ++ [k] ∧ s.txReady = true ∧ t.txReady = false := by
  have others {m : Move} (hm : s.nextMove = m) (hne : m ≠ .block) : s.txPort = none :=
    State.txPort_of_not_block (hm.trans_ne hne)
  rcases step_cases hs with ⟨p, hm, -, rfl⟩ | ⟨hf, ⟨hm, rfl⟩ | ⟨w, hm, rfl⟩ | ⟨hm, rfl⟩ | ⟨hm, hb⟩⟩
  · exact .inl ⟨others hm nofun, fun hc => (by rw [hm] at hc; cases hc), fun _ => rfl⟩
  · exact .inl ⟨others hm nofun, fun _ => rfl, fun hne => absurd hm hne⟩
  · exact .inl ⟨others hm nofun, fun _ => rfl, fun _ => rfl⟩
  · exact .inl ⟨others hm nofun, fun _ => rfl, fun _ => rfl⟩
  · have hruns : s.blockRuns = decide (s.st = .run) := by
      rcases hf with hf | hf <;> simp [State.blockRuns, hm, hf]
    cases handover_of_blockStep h.popMove hb with
    | none waits tokens flag =>
      refine .inl ⟨?_, fun _ => tokens, fun _ => flag⟩
      rcases waits with hst | hr | hw
      · simp [State.txPort, hruns, show s.st = .halt from hst]
      · simp [State.txPort, show s.txReady = false from hr]
      · simp [State.txPort, show s.pendingWord = none from hw]
    | token run ready w pending tokens flag =>
      refine .inr ⟨⟨s.bcs.ctas, w⟩, ?_, tokens, ready, flag⟩
      simp [State.txPort, hruns, show s.st = .run from run, show s.txReady = true from ready,
        show s.pendingWord = some w from pending]

/-- Settles O41: a step with a token on the port, or a step without. -/
theorem tokenPortShowsWhatTheStepEmits : Obligations.TokenPortShowsWhatTheStepEmits := by
  unfold Obligations.TokenPortShowsWhatTheStepEmits
  intro s t h hs
  have others (hm : s.nextMove ≠ .block) : s.txPort = none ∧ s.txReadyClr = false := by
    have hport := State.txPort_of_not_block hm
    exact ⟨hport, by rw [State.txReadyClr, hport]; rfl⟩
  rcases step_txPort h hs with ⟨hport, tokens, flag⟩ | ⟨k, hport, tokens, ready, low⟩
  · have hclr : s.txReadyClr = false := by rw [State.txReadyClr, hport]; rfl
    exact ⟨fun hc => by rw [tokens hc, hport]; simp, others, fun e => by simp [hclr] at e, fun _ => flag⟩
  · have hclr : s.txReadyClr = true := by rw [State.txReadyClr, hport]; rfl
    exact ⟨fun _ => by rw [tokens, hport]; rfl, others, fun _ => ⟨ready, low⟩, fun e => by simp [hclr] at e⟩

/-! ### The tokens of a log (R66) -/

theorem logTokensOk_iff (b : BusParams) (l : List Event) :
    logTokensOk b l = true ↔ ∀ k ∈ tokensOf l, isFrameToken b k = true := by
  induction l with
  | nil => simp [logTokensOk, tokensOf]
  | cons e l ih => cases e <;> simp_all [logTokensOk, tokensOf]

/-- The state after the move of a construction. -/
theorem constructed_of_step {s t : State} (hs : step s = .next t) (hc : s.nextMove.isConstruct = true) :
    ∃ p, t = s.popMove.constructed p := by
  rcases step_cases hs with ⟨p, -, -, e⟩ | ⟨-, ⟨hm, -⟩ | ⟨w, hm, -⟩ | ⟨hm, -⟩ | ⟨hm, -⟩⟩
  · exact ⟨p, e⟩
  all_goals rw [hm] at hc; cases hc

/-- A construction logs the events of BUSINIT or nothing: no token. -/
theorem State.constructed_tokens (s : State) (p : Straps) : tokensOf (s.constructed p).txlog = [] := by
  show tokensOf (if rangeMatches p then busInitEvents s.params p.cfgPin else []) = []
  split_ifs <;> rfl

theorem isFrameToken_sym (b : BusParams) (d : Bool) : isFrameToken b ⟨.data, sym b d⟩ = true := by
  cases d <;> simp [isFrameToken, sym, tokenT0Of, tokenT1Of]

/-- Under the invariant the profile goes with the pending word, so the token on the port is one of the three. -/
theorem isFrameToken_of_txPort {s : State} {k : Token} (h : s.Inv) (hk : s.txPort = some k) :
    isFrameToken s.params.bus k = true := by
  rcases s.txPort_cases with ⟨hn, -⟩ | ⟨-, -, w, hw, hport⟩
  · rw [hn] at hk; cases hk
  · obtain rfl : (⟨s.bcs.ctas, w⟩ : Token) = k := Option.some.inj (hport.symm.trans hk)
    rw [h.profile]
    cases hp : s.seq.phase with
    | idle | preSel | postSel => simp [State.pendingWord, hp] at hw
    | preTx | postTx =>
      obtain rfl : s.params.bus.resetWord = w := by simpa [State.pendingWord, hp] using hw
      simp [isFrameToken, tokenRstOf, Phase.profile]
    | dataTx =>
      obtain ⟨v, -, rfl⟩ : ∃ v, s.pbRead s.seq.pix = some v ∧ sym s.params.bus (v.getLsbD s.seq.bit.val) = w := by
        simpa [State.pendingWord, hp] using hw
      exact isFrameToken_sym _ _

/-- Settles O35: a step logs the token on the port at most, and a construction logs none. -/
theorem onlyThreeTokensEverOccur : Obligations.OnlyThreeTokensEverOccur := by
  unfold Obligations.OnlyThreeTokensEverOccur
  intro s t h hlog hs
  rw [(onlyConstructionWritesTheGeometry s t hs).1, logTokensOk_iff]
  rw [logTokensOk_iff] at hlog
  cases hc : s.nextMove.isConstruct with
  | true =>
    obtain ⟨p, rfl⟩ := constructed_of_step hs hc
    rw [State.constructed_tokens]
    nofun
  | false =>
    rw [(tokenPortShowsWhatTheStepEmits s t h hs).1 hc]
    intro k hk
    rcases List.mem_append.mp hk with hk | hk
    · exact hlog k hk
    · exact isFrameToken_of_txPort h (Option.mem_toList.mp hk)

end Sys2Proof.Machine
end

section
/-!
PROOFS of the statements on 40_correct_and_translate.md. The channels of a packed colour are read back one by one; the translator
either leaves an index alone or mirrors its column in its row, and does so twice to no effect.
-/

namespace Sys2Proof.Machine

/-! ### The colour correction (R81 to R83) -/

@[simp] theorem redOf_packChannels (red green blue : Channel) : redOf (packChannels red green blue) = red := by
  apply BitVec.eq_of_toNat_eq
  rw [redOf, BitVec.extractLsb'_toNat, toNat_packChannels, Nat.shiftRight_eq_div_pow]
  omega

@[simp] theorem greenOf_packChannels (red green blue : Channel) : greenOf (packChannels red green blue) = green := by
  apply BitVec.eq_of_toNat_eq
  rw [greenOf, BitVec.extractLsb'_toNat, toNat_packChannels, Nat.shiftRight_eq_div_pow]
  omega

@[simp] theorem blueOf_packChannels (red green blue : Channel) : blueOf (packChannels red green blue) = blue :=
  BitVec.extractLsb'_append_eq_right

/-- Half of a channel is an index of the table (R82). -/
theorem half_channel_lt (c : Channel) : c.toNat / 2 < 128 := by
  omega

/-- The table's answer for a dimmed channel. -/
theorem cctLookup_dimdiv (t : CctTable) (c : Channel) :
    cctLookup t (dimdiv c) = t[c.toNat / 2]'(half_channel_lt c) := by
  have hidx : (dimdiv c).toNat = c.toNat / 2 := Nat.mod_eq_of_lt (half_channel_lt c)
  simp only [cctLookup, hidx]

/-- Settles O12: each channel read back, looked up at its half, and packed as a number. -/
theorem correctDimsLooksUpAndPermutes : Obligations.CorrectDimsLooksUpAndPermutes := by
  unfold Obligations.CorrectDimsLooksUpAndPermutes
  intro t red green blue
  refine ⟨half_channel_lt red, half_channel_lt green, half_channel_lt blue, ?_⟩
  rw [← packChannels, correct, toNat_packChannels]
  simp only [redOf_packChannels, greenOf_packChannels, blueOf_packChannels, cctLookup_dimdiv]

/-! ### The translator inside the buffer (R85, R86) -/

/-- Without `ALT` and in even rows the translator leaves the index alone. -/
theorem xlate_of_even_row {g : Geom} {i : Nat} (h : g.alt = false ∨ i / g.w % 2 = 0) : xlate g i = i := by
  rcases h with ha | hrow
  · exact xlate_of_not_alt ha i
  · simp [xlate, hrow, Nat.div_add_mod']

/-- With `ALT` it mirrors the column in odd rows. -/
theorem xlate_of_odd_row {g : Geom} {i : Nat} (ha : g.alt = true) (hrow : i / g.w % 2 = 1) :
    xlate g i = i / g.w * g.w + (g.w - 1 - i % g.w) := by
  simp [xlate, ha, hrow]

/-- An index is one the translator leaves alone, or one of an odd row of a serpentine. -/
theorem even_or_odd_row (g : Geom) (i : Nat) :
    (g.alt = false ∨ i / g.w % 2 = 0) ∨ (g.alt = true ∧ i / g.w % 2 = 1) := by
  cases g.alt <;> simp [Nat.mod_two_eq_zero_or_one]

/-- An odd row has a column. -/
theorem width_pos_of_odd_row {g : Geom} {i : Nat} (hrow : i / g.w % 2 = 1) : 0 < g.w := by
  refine Nat.pos_of_ne_zero fun h0 => ?_
  simp [h0] at hrow

/-- The translator keeps the row. -/
theorem xlate_div (g : Geom) (i : Nat) : xlate g i / g.w = i / g.w := by
  rcases even_or_odd_row g i with h | ⟨ha, hrow⟩
  · rw [xlate_of_even_row h]
  · have hw := width_pos_of_odd_row hrow
    have hcol : g.w - 1 - i % g.w < g.w := by omega
    rw [xlate_of_odd_row ha hrow, Nat.mul_comm, Nat.mul_add_div hw, Nat.div_eq_of_lt hcol, Nat.add_zero]

/-- In an odd row of a serpentine the column is mirrored. -/
theorem xlate_mod_of_odd_row {g : Geom} {i : Nat} (ha : g.alt = true) (hrow : i / g.w % 2 = 1) :
    xlate g i % g.w = g.w - 1 - i % g.w := by
  have hw := width_pos_of_odd_row hrow
  have hcol : g.w - 1 - i % g.w < g.w := by omega
  rw [xlate_of_odd_row ha hrow, Nat.mul_add_mod', Nat.mod_eq_of_lt hcol]

/-- The translator is its own inverse: mirroring a column twice gives it back. -/
theorem xlate_involutive (g : Geom) : Function.Involutive (xlate g) := by
  intro i
  rcases even_or_odd_row g i with h | ⟨ha, hrow⟩
  · rw [xlate_of_even_row h, xlate_of_even_row h]
  · have hcol : i % g.w < g.w := Nat.mod_lt _ (width_pos_of_odd_row hrow)
    calc xlate g (xlate g i)
        = i / g.w * g.w + (g.w - 1 - (g.w - 1 - i % g.w)) := by
          rw [xlate_of_odd_row ha (by rw [xlate_div]; exact hrow), xlate_div, xlate_mod_of_odd_row ha hrow]
      _ = i / g.w * g.w + i % g.w := by omega
      _ = i := Nat.div_add_mod' i g.w

/-- Settles O13: the translator's two cases, and what follows from its being its own inverse. -/
theorem translatorIsItsOwnInverse : Obligations.TranslatorIsItsOwnInverse := by
  unfold Obligations.TranslatorIsItsOwnInverse
  intro g i hi
  refine ⟨xlate_lt hi, xlate_div g i, xlate_involutive g i, fun j _ hj => (xlate_involutive g).injective hj,
    fun ha => xlate_of_even_row (.inl ha), xlate_of_odd_row, fun _ hrow => ?_⟩
  have hkeep : xlate g i = i := xlate_of_even_row (.inr hrow)
  exact ⟨hkeep.trans (Nat.div_add_mod' i g.w).symm, hkeep⟩

/-! ### The index `N` (R87) -/

/-- Settles O14: `N` is column 0 of the row `H`. -/
theorem translatorSendsTheBoundaryIndexOutside : Obligations.TranslatorSendsTheBoundaryIndexOutside := by
  unfold Obligations.TranslatorSendsTheBoundaryIndexOutside
  intro g hw _
  refine ⟨fun ha => xlate_of_not_alt ha g.n, fun ha heven => ?_, fun ha hodd => ?_, le_xlate_n g⟩
  · rw [xlate_n ha hw, if_neg (by omega), Nat.add_zero]
  · rw [xlate_n ha hw, if_pos hodd, Nat.add_sub_assoc hw]

/-! ### The coordinates (R84, R89) -/

/-- The slot of a column and a row. -/
theorem xlate_lin2d {g : Geom} {x : Nat} (hx : x < g.w) (y : Nat) :
    xlate g (lin2d g x y) =
      if g.alt = false ∨ y % 2 = 0 then y * g.w + x else y * g.w + (g.w - 1 - x) := by
  cases ha : g.alt with
  | false => simp [ha, lin2d]
  | true =>
    rw [lin2d, xlate_row_col ha hx]
    rcases Nat.mod_two_eq_zero_or_one y with hy | hy <;> simp [hy]

/-- Column `W` of a row is column 0 of the next. -/
theorem lin2d_width (g : Geom) (y : Nat) : lin2d g g.w y = lin2d g 0 (y + 1) := by
  rw [lin2d, lin2d, Nat.succ_mul, Nat.add_zero]

/-- Column 0 of the row `H` has the index `N`. -/
theorem lin2d_zero_height (g : Geom) : lin2d g 0 g.h = g.n := by
  rw [lin2d, Geom.n, Nat.add_zero, Nat.mul_comm]

/-- Settles O15: the slot of a column below `W`, and column `W` as column 0 of the next row. -/
theorem coordinatesReachTheirSlot : Obligations.CoordinatesReachTheirSlot := by
  unfold Obligations.CoordinatesReachTheirSlot
  intro g x y hw hh
  refine ⟨fun hx _ => xlate_lin2d hx y, ?_, ?_, ?_⟩
  · rintro rfl -
    rw [lin2d_width]
    refine ⟨rfl, ?_⟩
    simp only [xlate_lin2d hw, Nat.add_zero, Nat.sub_zero, Nat.add_sub_assoc hw]
  · rintro rfl rfl
    rw [lin2d_width, Nat.sub_add_cancel hh, lin2d_zero_height]
  · rintro rfl rfl
    exact lin2d_zero_height g

end Sys2Proof.Machine
end

section
/-!
PROOFS of the statements on 41_buffer_commands.md. SETXY is its own check before a SET of the row-major index, so both are read off
what SET does below, at and beyond `N`; a list of commands is followed one outcome at a time.
-/

namespace Sys2Proof.Machine
open Sys2Proof.Claims

/-! ### CLEAR (R90) -/

/-- Settles O16: the buffer without a listed slot reads 0 everywhere. -/
theorem clearZeroesEverySlot : Obligations.ClearZeroesEverySlot := by
  unfold Obligations.ClearZeroesEverySlot
  intro s w hop
  exact ⟨(opField_iff_decodeCommand w).1.mp hop, s.pbClear, rfl, State.pbRead_of_empty rfl, rfl, rfl⟩

/-! ### SET (R92, R93) -/

/-- Reading a slot after a store inside the buffer. -/
theorem State.pbRead_store {s : State} {a : Nat} (hwf : Memory.wf s.pb = true) (ha : a < s.geom.n) (v : Entry) (b : Nat) :
    State.pbRead { s with pb := Memory.write s.pb a v } b = if b = a then some v else s.pbRead b := by
  by_cases hb : b = a
  · subst hb
    rw [State.pbRead, if_pos ha, Memory.read_write hwf, if_pos rfl, if_pos rfl]
  · simp [State.pbRead, Memory.read_write hwf, hb]

/-- An index below 0 or above `N` is dropped. -/
theorem exec_set_of_outside {s : State} {i : Int} (h : ¬ (0 ≤ i ∧ i ≤ (s.geom.n : Int))) (rgb : Rgb) :
    exec (.set i rgb) s = .next s := by
  rcases s.setLinear_cases i rgb with ⟨-, e⟩ | ⟨h0, hn, -⟩
  · exact congrArg Host.Outcome.next e
  · exact absurd ⟨h0, hn⟩ h

/-- An index of the buffer names one slot, which holds the corrected colour; all else is as before. -/
theorem exec_set_of_inside {s : State} {i : Int} (hwf : Memory.wf s.pb = true) (h0 : 0 ≤ i) (hn : i < s.geom.n)
    (rgb : Rgb) :
    ∃ t, exec (.set i rgb) s = .next t ∧ t = { s with pb := t.pb } ∧
      ∀ a, t.pbRead a = if a = xlate s.geom i.toNat then some (correct s.params.cct rgb) else s.pbRead a := by
  rcases s.setLinear_slots i rgb with ⟨hout, -⟩ | ⟨-, -, hslot, e⟩ | ⟨hat, -⟩
  · exact absurd ⟨h0, hn.le⟩ hout
  · exact ⟨_, congrArg Host.Outcome.next e, rfl, State.pbRead_store hwf hslot _⟩
  · exact absurd hat hn.ne

/-- The index `N` changes the fault record only. -/
theorem exec_set_of_n (s : State) (rgb : Rgb) :
    exec (.set s.geom.n rgb) s =
      .next { s with fault := .oobWrite (xlate s.geom s.geom.n) (correct s.params.cct rgb) } := by
  rcases s.setLinear_slots s.geom.n rgb with ⟨hout, -⟩ | ⟨-, hlt, -⟩ | ⟨-, e⟩
  · exact absurd ⟨Int.natCast_nonneg _, le_rfl⟩ hout
  · exact absurd hlt (lt_irrefl _)
  · exact congrArg Host.Outcome.next e

/-- Settles O17: outside, inside, at `N`. -/
theorem setOutcomeForEveryIndex : Obligations.SetOutcomeForEveryIndex := by
  unfold Obligations.SetOutcomeForEveryIndex
  intro s i rgb hwf
  refine ⟨fun hneg => exec_set_of_outside (by omega) rgb, fun h0 hn => ⟨xlate_lt (by omega), ?_⟩, ?_,
    fun hbeyond => exec_set_of_outside (by omega) rgb⟩
  · exact exec_set_of_inside hwf h0 hn rgb
  · rintro rfl
    exact ⟨le_xlate_n s.geom, exec_set_of_n s rgb⟩

/-! ### SETXY (R94, R95) -/

/-- The row-major index of coordinates that are not negative, as an integer (R84). -/
theorem lin2d_toNat (g : Geom) {x y : Int} (hx : 0 ≤ x) (hy : 0 ≤ y) :
    ((lin2d g x.toNat y.toNat : Nat) : Int) = y * g.w + x := by
  simp [lin2d, hx, hy]

/-- SETXY is its own check before a SET of the row-major index. -/
theorem exec_setxy (s : State) (x y : Int) (rgb : Rgb) :
    exec (.setxy x y rgb) s =
      if coordsAccepted s.geom x y then exec (.set (y * s.geom.w + x) rgb) s else .next s := by
  show Host.Outcome.next (if coordsAccepted s.geom x y then _ else s) = _
  split_ifs with hc
  · obtain ⟨hx, -, hy, -⟩ := (coordsAccepted_iff s.geom x y).mp hc
    rw [lin2d_toNat s.geom hx hy]
    rfl
  · rfl

/-- Coordinates out of their ranges are dropped. -/
theorem exec_setxy_of_outside {s : State} {x y : Int}
    (h : ¬ (0 ≤ x ∧ x ≤ (s.geom.w : Int) ∧ 0 ≤ y ∧ y ≤ (s.geom.h : Int))) (rgb : Rgb) :
    exec (.setxy x y rgb) s = .next s := by
  rw [exec_setxy, if_neg (mt (coordsAccepted_iff s.geom x y).mp h)]

/-- Coordinates within their ranges reach SET. -/
theorem exec_setxy_of_accepted {s : State} {x y : Int} (hx : 0 ≤ x) (hxw : x ≤ s.geom.w) (hy : 0 ≤ y)
    (hyh : y ≤ s.geom.h) (rgb : Rgb) : exec (.setxy x y rgb) s = exec (.set (y * s.geom.w + x) rgb) s := by
  rw [exec_setxy, if_pos ((coordsAccepted_iff s.geom x y).mpr ⟨hx, hxw, hy, hyh⟩)]

/-- `N` as the start of the row `H`. -/
theorem Geom.n_eq_height_mul_width (g : Geom) : (g.n : Int) = g.h * g.w := by
  rw [Geom.n, Nat.cast_mul, mul_comm]

/-- A row and a column of the geometry have an index below `N`. -/
theorem index_lt_n {g : Geom} {x y : Int} (hx : x < g.w) (hy : y < g.h) : y * g.w + x < g.n := by
  have hrows : (y + 1) * g.w ≤ g.h * g.w := mul_le_mul_of_nonneg_right hy (Int.natCast_nonneg g.w)
  rw [g.n_eq_height_mul_width]
  linarith

/-- Settles O18: each clause is a SET of the row-major index, below `N`, at `N` or beyond. -/
theorem setxyOutcomeForEveryCoordinate : Obligations.SetxyOutcomeForEveryCoordinate := by
  unfold Obligations.SetxyOutcomeForEveryCoordinate
  intro s x y rgb hwf hgeom
  obtain ⟨hw, hh, -⟩ := (geometryOk_iff _ _).mp hgeom
  have hn := s.geom.n_eq_height_mul_width
  refine ⟨fun hout => exec_setxy_of_outside (by omega) rgb, ?inside, ?rightEdge, ?atN, ?below⟩
  case inside =>
    intro hx hxw hy hyh
    have hlt := index_lt_n hxw hyh
    rw [exec_setxy_of_accepted hx hxw.le hy hyh.le]
    exact ⟨hlt, exec_set_of_inside hwf (by positivity) hlt rgb⟩
  case rightEdge =>
    rintro rfl hy hyh
    have hlt : (y + 1) * s.geom.w < s.geom.n := by
      simpa using index_lt_n (g := s.geom) (x := 0) (y := y + 1) (by omega) (by omega)
    have hnext : y * s.geom.w + s.geom.w = (y + 1) * s.geom.w := by ring
    rw [exec_setxy_of_accepted (Int.natCast_nonneg _) le_rfl hy (by omega), hnext]
    exact ⟨hlt, exec_set_of_inside hwf (by positivity) hlt rgb⟩
  case atN =>
    rintro (⟨rfl, rfl⟩ | ⟨rfl, rfl⟩)
    · have hindex : ((s.geom.h : Int) - 1) * s.geom.w + s.geom.w = s.geom.n := by rw [hn]; ring
      rw [exec_setxy_of_accepted (Int.natCast_nonneg _) le_rfl (by omega) (by omega), hindex, exec_set_of_n]
    · rw [exec_setxy_of_accepted le_rfl (Int.natCast_nonneg _) (Int.natCast_nonneg _) le_rfl, add_zero, ← hn,
        exec_set_of_n]
  case below =>
    rintro hx hxw rfl
    rw [exec_setxy_of_accepted (by omega) hxw (Int.natCast_nonneg _) le_rfl, ← hn]
    exact exec_set_of_outside (by omega) rgb

/-! ### Lists of buffer commands (R96) -/

/-- From `s`, the instruction `i` leaves `t` as the outcome tables say: the buffer in canonical form, and, when no fault stands, each
slot with what `i` stored in it, or with what it held. -/
structure BufferOutcome (i : Instr) (s t : State) : Prop where
  geom   : t.geom = s.geom
  params : t.params = s.params
  form   : Memory.wf t.pb = true
  before : t.fault = .none → s.fault = .none
  reads  : t.fault = .none → ∀ a, Memory.read t.pb a = (storeOf s.geom s.params.cct a i).getD (Memory.read s.pb a)

/-- An instruction that stores nothing and leaves the state as it is. -/
theorem BufferOutcome.of_dropped {i : Instr} {s : State} (hwf : Memory.wf s.pb = true)
    (h : ∀ a, storeOf s.geom s.params.cct a i = none) : BufferOutcome i s s :=
  ⟨rfl, rfl, hwf, id, fun _ a => by rw [h, Option.getD_none]⟩

/-- What SET leaves. -/
theorem State.setLinear_outcome {s : State} (hwf : Memory.wf s.pb = true) (i : Int) (rgb : Rgb) :
    BufferOutcome (.set i rgb) s (s.setLinear i rgb) := by
  rcases s.setLinear_slots i rgb with ⟨hout, e⟩ | ⟨h0, hn, -, e⟩ | ⟨-, e⟩ <;> rw [e]
  · exact .of_dropped hwf fun a => if_neg (by omega)
  · refine ⟨rfl, rfl, Memory.wf_write _ _ hwf, id, fun _ a => ?_⟩
    simp only [storeOf, Memory.read_write hwf, h0, hn, true_and, eq_comm (a := a)]
    split_ifs <;> rfl
  · exact ⟨rfl, rfl, hwf, nofun, nofun⟩

/-- SETXY stores what SET stores at the row-major index, if its own check lets it through. -/
theorem storeOf_setxy (g : Geom) (t : CctTable) (a : Nat) (x y : Int) (rgb : Rgb) :
    storeOf g t a (.setxy x y rgb) =
      if coordsAccepted g x y then storeOf g t a (.set (y * g.w + x) rgb) else none := by
  by_cases hc : coordsAccepted g x y = true
  · obtain ⟨hx, hxw, hy, hyh⟩ := (coordsAccepted_iff g x y).mp hc
    have hindex : 0 ≤ y * g.w + x := by positivity
    simp only [storeOf, hc, hx, hxw, hy, hyh, hindex, true_and, if_true]
  · rw [if_neg hc]
    rw [coordsAccepted_iff] at hc
    exact if_neg fun ⟨hx, hxw, hy, hyh, _⟩ => hc ⟨hx, hxw, hy, hyh⟩

/-- Every buffer command completes as the outcome tables say. -/
theorem exec_bufferOutcome {i : Instr} {s : State} (hi : isBufferCommand i = true) (hwf : Memory.wf s.pb = true) :
    ∃ t, exec i s = .next t ∧ BufferOutcome i s t := by
  cases i with
  | clear => exact ⟨s.pbClear, rfl, rfl, rfl, rfl, id, fun _ _ => rfl⟩
  | set i rgb => exact ⟨_, rfl, s.setLinear_outcome hwf i rgb⟩
  | setxy x y rgb =>
    rw [exec_setxy]
    have hstore := fun a => storeOf_setxy s.geom s.params.cct a x y rgb
    split_ifs at hstore ⊢
    · obtain ⟨hgeom, hparams, hform, hbefore, hreads⟩ := s.setLinear_outcome hwf (y * s.geom.w + x) rgb
      exact ⟨_, rfl, hgeom, hparams, hform, hbefore, fun hf a => by rw [hstore, hreads hf]⟩
    · exact ⟨s, rfl, .of_dropped hwf hstore⟩
  | send | tokenRst | tokenT0 | tokenT1 => cases hi

/-- A list of buffer commands that ends without a fault began without one, and each slot holds the last value stored in it. -/
theorem execAll_reads {is : List Instr} {s t : State} (his : is.all isBufferCommand = true)
    (hwf : Memory.wf s.pb = true) (hrun : execAll is s = .next t) (hf : t.fault = .none) :
    t.geom = s.geom ∧ s.fault = .none ∧
      ∀ a, Memory.read t.pb a = contentAfter s.geom s.params.cct a (Memory.read s.pb a) is := by
  induction is generalizing s with
  | nil =>
    cases hrun
    exact ⟨rfl, hf, fun _ => rfl⟩
  | cons i is ih =>
    obtain ⟨hi, his⟩ := Bool.and_eq_true_iff.mp his
    obtain ⟨u, hu, hgeom, hparams, hform, hbefore, hreads⟩ := exec_bufferOutcome hi hwf
    rw [execAll, hu] at hrun
    obtain ⟨hgeom', hfu, htail⟩ := ih his hform hrun
    rw [hgeom, hparams] at htail
    exact ⟨hgeom'.trans hgeom, hbefore hfu, fun a => by rw [htail a, hreads hfu a]; rfl⟩

/-- Settles O19: `execAll_reads`, from the canonical form the invariant gives. -/
theorem slotsHoldTheLastAcceptedWrite : Obligations.SlotsHoldTheLastAcceptedWrite := by
  unfold Obligations.SlotsHoldTheLastAcceptedWrite
  intro is s t his hinv _ hrun hf a ha
  obtain ⟨hgeom, -, hreads⟩ := execAll_reads his hinv.pbForm hrun hf
  rw [State.pbRead_of_lt (by rwa [hgeom]), hreads]

end Sys2Proof.Machine
end

section
/-!
PROOFS of the statements on 42_send.md. A step of a SEND in progress is sorted once by what it logs: nothing, the frame's next
token, or the last token and the end of the mask. The statements on the log and the schedule are read off that.
-/

namespace Sys2Proof.Machine
open Sys2Proof.Claims

/-! ### The micro-operations and the moves of the other agents (R100 to R106) -/

/-- Settles O21: the arm of SEND, unfolded. -/
theorem sendIsAcceptedUnderTheMask : Obligations.SendIsAcceptedUnderTheMask := by
  unfold Obligations.SendIsAcceptedUnderTheMask
  exact fun _ => rfl

/-- Settles O22: the two cases of TXRESET. -/
theorem resetPulseEmitsOneZeroWord : Obligations.ResetPulseEmitsOneZeroWord := by
  unfold Obligations.ResetPulseEmitsOneZeroWord
  exact fun s => ⟨fun hr => congrArg Host.Outcome.next (State.txReset_ready hr),
    fun hr => congrArg Host.Outcome.next (State.txReset_wait hr)⟩

/-- Settles O23: the two cases of TXWORD, which TXBIT runs with the bit's pattern. -/
theorem dataBitEmitsItsPattern : Obligations.DataBitEmitsItsPattern := by
  unfold Obligations.DataBitEmitsItsPattern
  intro s
  refine ⟨fun hr => congrArg Host.Outcome.next (State.txWord_ready hr _),
    fun hr => congrArg Host.Outcome.next (State.txWord_ready hr _), fun hr => ?_, fun _ => rfl⟩
  exact ⟨congrArg Host.Outcome.next (State.txWord_wait hr _), congrArg Host.Outcome.next (State.txWord_wait hr _)⟩

/-- Without `OobWrite` a move has its own outcome. -/
theorem unlessOobWrite_of_stands {s : State} (h : s.fault = .none ∨ s.fault = .cfgMismatch)
    (o : Host.Outcome State Fault Refusal) : unlessOobWrite s o = o := by
  rcases h with h | h <;> simp [unlessOobWrite, h]

/-- Settles O26: each move writes its own field. -/
theorem otherAgentsTouchOnlyTheirOwn : Obligations.OtherAgentsTouchOnlyTheirOwn := by
  unfold Obligations.OtherAgentsTouchOnlyTheirOwn
  intro s hf
  refine ⟨fun hm => ?_, fun w hm => ?_, fun hm => ?_⟩ <;> rw [step, hm]
  · exact unlessOobWrite_of_stands (s := s.popMove) hf _
  · exact unlessOobWrite_of_stands (s := s.popMove) hf _
  · exact unlessOobWrite_of_stands (s := s.popMove) hf _

/-! ### The frame by the position of the sequencer (R69, R109) -/

/-- The frame's token for bit `k` of slot `a`. -/
theorem frameAt_of_bit (b : BusParams) (pb : Memory) {n a k : Nat} (ha : a < n) (hk : k < 24) :
    frameAt b pb n (1 + 24 * a + (23 - k)) = ⟨.data, sym b ((Memory.read pb a).getLsbD k)⟩ := by
  have inside : ¬ (1 + 24 * a + (23 - k) = 0 ∨ 1 + 24 * a + (23 - k) = 24 * n + 1) := by omega
  have hslot : (1 + 24 * a + (23 - k) - 1) / 24 = a := by omega
  have hbit : 23 - (1 + 24 * a + (23 - k) - 1) % 24 = k := by omega
  rw [frameAt, if_neg inside, hslot, hbit]

/-- Different patterns tell the two bits apart. -/
theorem sym_injective {b : BusParams} (h : b.wellFormed = true) : Function.Injective (sym b) := by
  have hne := word1_ne_word0 h
  intro d d' e
  cases d <;> cases d'
  · rfl
  · exact absurd e.symm hne
  · exact absurd e hne
  · rfl

/-- Settles O28: equal frames have equal tokens at the position of each bit. -/
theorem frameDeterminesTheBuffer : Obligations.FrameDeterminesTheBuffer := by
  unfold Obligations.FrameDeterminesTheBuffer
  intro b pb pb' n hb e a ha
  refine BitVec.eq_of_getLsbD_eq fun k hk => sym_injective hb ?_
  have hpos : 1 + 24 * a + (23 - k) < 2 + 24 * n := by omega
  have htoken : frameAt b pb n (1 + 24 * a + (23 - k)) = frameAt b pb' n (1 + 24 * a + (23 - k)) := by
    rw [← Option.some_inj, ← frame_getElem? b pb n hpos, ← frame_getElem? b pb' n hpos, e]
  rw [frameAt_of_bit b pb ha hk, frameAt_of_bit b pb' ha hk] at htoken
  exact congrArg Token.word htoken

/-- One token more of the frame. -/
theorem frameEvents_take_succ (s : State) {k : Nat} (hk : k < 2 + 24 * s.geom.n) :
    (frameEvents s).take (k + 1) =
      (frameEvents s).take k ++ [.token (frameAt s.params.bus s.pb s.geom.n k)] := by
  rw [List.take_add_one, frameEvents, List.getElem?_map, frame_getElem? _ _ _ hk]
  rfl

theorem frameEvents_length (s : State) : (frameEvents s).length = 2 + 24 * s.geom.n := by
  rw [frameEvents, List.length_map, frame_length]

/-- The frame of a state with the same parameters, buffer and geometry. -/
theorem frameEvents_congr {s t : State} (hparams : t.params = s.params) (hpb : t.pb = s.pb) (hgeom : t.geom = s.geom) :
    frameEvents t = frameEvents s := by
  rw [frameEvents, frameEvents, hparams, hpb, hgeom]

theorem State.sentTokens_of_dataTx {s : State} (hp : s.seq.phase = .dataTx) :
    s.sentTokens = 1 + 24 * s.seq.pix + (23 - s.seq.bit.val) := by
  rw [State.sentTokens, hp]

theorem State.sentTokens_of_post {s : State} (hp : s.seq.phase = .postSel ∨ s.seq.phase = .postTx) :
    s.sentTokens = 1 + 24 * s.geom.n := by
  rcases hp with hp | hp <;> rw [State.sentTokens, hp]

theorem State.sentTokens_of_pre {s : State} (hp : s.seq.phase = .preSel ∨ s.seq.phase = .preTx) :
    s.sentTokens = 0 := by
  rcases hp with hp | hp <;> rw [State.sentTokens, hp]

/-! ### A step of a SEND in progress -/

/-- The token the frame has next (R107). -/
def State.nextToken (s : State) : Token := frameAt s.params.bus s.pb s.geom.n s.sentTokens

/-- What a step of a SEND in progress does to the log: nothing, the frame's next token, or the last token with the end of the
mask. -/
inductive SendProgress (s t : State) : Prop where
  | quiet (busy : t.seq.phase ≠ .idle) (sent : t.sentTokens = s.sentTokens) (log : t.txlog = s.txlog)
  | emits (ready : s.txReady = true) (busy : t.seq.phase ≠ .idle) (more : s.sentTokens < 2 + 24 * s.geom.n)
      (sent : t.sentTokens = s.sentTokens + 1) (log : t.txlog = s.txlog ++ [.token s.nextToken])
  | ends (ready : s.txReady = true) (idle : t.seq.phase = .idle) (last : s.sentTokens = 1 + 24 * s.geom.n)
      (log : t.txlog = s.txlog ++ [.token s.nextToken, .irqMask false]) (flag : t.txReady = false)

/-- In the phases of the reset pulses the next token is `RST`. -/
theorem State.nextToken_of_reset {s : State} (hp : s.seq.phase = .preTx ∨ s.seq.phase = .postTx) :
    s.nextToken = ⟨.reset, s.params.bus.resetWord⟩ := by
  refine if_pos ?_
  rcases hp with hp | hp
  · exact .inl (State.sentTokens_of_pre (.inr hp))
  · exact .inr ((State.sentTokens_of_post (.inr hp)).trans (Nat.add_comm _ _))

/-- In `DATA_TX` it is the symbol of the bit at the sequencer's position. -/
theorem State.nextToken_of_dataTx {s : State} (hp : s.seq.phase = .dataTx) (hx : s.seq.pix < s.geom.n) :
    s.nextToken = ⟨.data, sym s.params.bus ((Memory.read s.pb s.seq.pix).getLsbD s.seq.bit.val)⟩ := by
  rw [State.nextToken, State.sentTokens_of_dataTx hp, frameAt_of_bit _ _ hx s.seq.bit.isLt]

/-- Handing over a bit brings the SEND one token further (R100, `DATA_TX`). -/
theorem SendProgress.of_bit {s : State} (h : s.Inv) (hr : s.txReady = true) (hp : s.seq.phase = .dataTx) :
    SendProgress s { s.emit (sym s.params.bus ((Memory.read s.pb s.seq.pix).getLsbD s.seq.bit.val)) with
      seq := nextDataSeq s.geom.n s.seq } := by
  have hx := h.pix hp
  have hbit := s.seq.bit.isLt
  have hsent := State.sentTokens_of_dataTx hp
  have hprofile : s.bcs.ctas = .data := h.profile.trans (by rw [hp]; rfl)
  have hlog : [Event.token s.nextToken] =
      [.token ⟨s.bcs.ctas, sym s.params.bus ((Memory.read s.pb s.seq.pix).getLsbD s.seq.bit.val)⟩] := by
    rw [State.nextToken_of_dataTx hp hx, hprofile]
  have hmore : s.sentTokens < 2 + 24 * s.geom.n := by omega
  rcases nextDataSeq_spec hp hx with ⟨hq, -, hnext⟩ | ⟨hq, hnext⟩
  · refine .emits hr (hq.trans_ne (by decide)) hmore ?_ (by rw [hlog]; rfl)
    rw [State.sentTokens_of_dataTx hq, hsent]
    show 1 + 24 * (nextDataSeq s.geom.n s.seq).pix + (23 - (nextDataSeq s.geom.n s.seq).bit.val) = _
    omega
  · refine .emits hr (hq.trans_ne (by decide)) hmore ?_ (by rw [hlog]; rfl)
    rw [State.sentTokens_of_post (.inl hq), hsent]
    show 1 + 24 * s.geom.n = _
    omega

/-- Every turn of the block in a SEND is one of the three. -/
theorem blockStep_progress {s t : State} (h : s.Inv) (hbusy : s.seq.phase ≠ .idle) (hb : blockStep s = .next t) :
    SendProgress s t := by
  rcases blockStep_spec hb with
    ⟨-, rfl⟩ | ⟨hready, -⟩ | ⟨-, hp, rfl⟩ | ⟨-, -, -, rfl⟩ | ⟨-, -, -, -, rfl⟩ | ⟨-, hr, hp, rfl⟩ |
    ⟨-, hr, hp, rfl⟩ | ⟨-, hr, hp, -, rfl⟩
  · exact .quiet hbusy rfl rfl
  · exact absurd (s.cmdReady_iff.mp hready).2.1 hbusy
  · rcases hp with hp | hp <;> exact .quiet (by simp [hp]) (by simp [State.sentTokens, hp]) rfl
  · exact .quiet hbusy rfl rfl
  · exact .quiet hbusy rfl rfl
  · have hsent := State.sentTokens_of_pre (.inr hp)
    exact .emits hr nofun (by omega) (by rw [hsent]; rfl) (by rw [State.nextToken_of_reset (.inl hp)]; rfl)
  · refine .ends hr rfl (State.sentTokens_of_post (.inr hp)) ?_ rfl
    rw [State.nextToken_of_reset (.inr hp)]
    exact List.append_assoc s.txlog [_] [_]
  · exact .of_bit h hr hp

/-- Every step of a SEND but a construction is one of the three. -/
theorem step_progress {s t : State} (h : s.Inv) (hbusy : s.seq.phase ≠ .idle) (hc : s.nextMove.isConstruct = false)
    (hs : step s = .next t) : SendProgress s t := by
  rcases step_cases hs with ⟨p, hm, -⟩ | ⟨-, ⟨-, rfl⟩ | ⟨w, -, rfl⟩ | ⟨-, rfl⟩ | ⟨-, hb⟩⟩
  · rw [hm] at hc; cases hc
  · exact .quiet hbusy rfl rfl
  · exact .quiet hbusy rfl rfl
  · exact .quiet hbusy rfl rfl
  · cases blockStep_progress h.popMove hbusy hb with
    | quiet busy sent log => exact .quiet busy sent log
    | emits ready busy more sent log => exact .emits ready busy more sent log
    | ends ready idle last log flag => exact .ends ready idle last log flag

/-- A SEND goes on with its log the beginning of the frame, or ends with the whole frame between the mask events (R107). -/
theorem SendProgress.frameSoFar {s t : State} {before : List Event} (h : SendProgress s t) (hf : FrameSoFar s before)
    (hframe : frameEvents t = frameEvents s) :
    (t.seq.phase ≠ .idle ∧ FrameSoFar t before) ∨
    (t.seq.phase = .idle ∧ t.txlog = before ++ .irqMask true :: (frameEvents s ++ [.irqMask false]) ∧
      t.txReady = false) := by
  unfold FrameSoFar at hf ⊢
  cases h with
  | quiet busy sent log => exact .inl ⟨busy, by rw [log, hf, hframe, sent]⟩
  | emits ready busy more sent log =>
    refine .inl ⟨busy, ?_⟩
    rw [log, hf, hframe, sent, frameEvents_take_succ s more]
    simp [State.nextToken]
  | ends ready idle last log flag =>
    refine .inr ⟨idle, ?_, flag⟩
    have hwhole : frameEvents s = (frameEvents s).take s.sentTokens ++ [.token s.nextToken] := by
      rw [State.nextToken, ← frameEvents_take_succ s (by omega), List.take_of_length_le]
      rw [frameEvents_length]
      omega
    conv_rhs => rw [hwhole]
    rw [log, hf]
    simp

/-- What a turn of the block in a SEND leaves alone. -/
theorem blockStep_frame_of_busy {s t : State} (hbusy : s.seq.phase ≠ .idle) (hb : blockStep s = .next t) :
    t = { s with bcs := { s.bcs with ctas := t.bcs.ctas }, irqMask := t.irqMask, seq := t.seq
                 txReady := t.txReady, txlog := t.txlog } := by
  cases blockTurn_of_blockStep hb with
  | nothing same => rw [same]
  | buffer ready _ _ _ _ => exact absurd (s.cmdReady_iff.mp ready).2.1 hbusy
  | accept ready _ _ _ _ => exact absurd (s.cmdReady_iff.mp ready).2.1 hbusy
  | send sends => exact sends.frame

/-- Buffer and fault record stand while a SEND is in progress (R111). -/
theorem step_frame_of_busy {s t : State} (hbusy : s.seq.phase ≠ .idle) (hc : s.nextMove.isConstruct = false)
    (hs : step s = .next t) : t.pb = s.pb ∧ t.fault = s.fault := by
  rcases step_cases hs with ⟨p, hm, -⟩ | ⟨-, ⟨-, rfl⟩ | ⟨w, -, rfl⟩ | ⟨-, rfl⟩ | ⟨-, hb⟩⟩
  · rw [hm] at hc; cases hc
  · exact ⟨rfl, rfl⟩
  · exact ⟨rfl, rfl⟩
  · exact ⟨rfl, rfl⟩
  · rw [blockStep_frame_of_busy (s := s.popMove) hbusy hb]
    exact ⟨rfl, rfl⟩

/-- The step that starts a SEND logs the mask event, before any token. -/
theorem frameSoFar_of_start {s t : State} (hidle : s.seq.phase = .idle) (hbusy : t.seq.phase ≠ .idle)
    (hs : step s = .next t) : FrameSoFar t s.txlog := by
  rcases step_cases hs with ⟨p, -, -, rfl⟩ | ⟨-, ⟨-, rfl⟩ | ⟨w, -, rfl⟩ | ⟨-, rfl⟩ | ⟨-, hb⟩⟩
  · exact absurd rfl hbusy
  · exact absurd hidle hbusy
  · exact absurd hidle hbusy
  · exact absurd hidle hbusy
  · cases blockTurn_of_blockStep hb with
    | nothing same => rw [same] at hbusy; exact absurd hidle hbusy
    | buffer _ _ _ _ frame => rw [frame] at hbusy; exact absurd hidle hbusy
    | accept _ _ _ _ sends => rw [sends]; rfl
    | send sends => exact absurd hidle sends.busy

/-- An idle state that keeps the invariant selects `DATA` and has the mask 0. -/
theorem State.Inv.of_idle {s : State} (h : s.Inv) (hidle : s.seq.phase = .idle) :
    s.bcs.ctas = .data ∧ s.irqMask = false :=
  ⟨h.profile.trans (by rw [hidle]; rfl), h.mask.trans (by simp [hidle])⟩

/-- Settles O29: the start of a SEND, and by `SendProgress.frameSoFar` each later step. -/
theorem sendEmitsExactlyTheFrame : Obligations.SendEmitsExactlyTheFrame := by
  unfold Obligations.SendEmitsExactlyTheFrame
  intro s t before h hc hs
  refine ⟨fun hidle hbusy => frameSoFar_of_start hidle hbusy hs, fun hbusy hf => ?_⟩
  obtain ⟨hparams, hrest⟩ := onlyConstructionWritesTheGeometry s t hs
  obtain ⟨hgeom, hst, heoq, hcont⟩ := hrest hc
  obtain ⟨hpb, hfault⟩ := step_frame_of_busy hbusy hc hs
  have hinv := everyStepKeepsTheInvariant s t h hs
  refine ⟨hpb, hgeom, hparams, hst, heoq, hcont, ?_⟩
  rcases (step_progress h hbusy hc hs).frameSoFar hf (frameEvents_congr hparams hpb hgeom) with
    goesOn | ⟨hidle, hlog, hflag⟩
  · exact .inl goesOn
  · obtain ⟨hprofile, hmask⟩ := hinv.of_idle hidle
    refine .inr ⟨hidle, hlog, hprofile, hmask, hflag, t.cmdReady_iff.mpr ⟨?_, hidle, ?_⟩⟩
    · rw [hst, (h.busy hbusy).1]
    · rw [hfault, (h.busy hbusy).2]

/-! ### The log under the mask (R101) -/

theorem replayMask_append (m : Bool) (l l' : List Event) :
    replayMask m (l ++ l') = (replayMask m l).bind fun m' => replayMask m' l' := by
  induction l generalizing m with
  | nil => rfl
  | cons e l ih =>
    cases e with
    | token k => cases m <;> simp [replayMask, ih]
    | irqMask on => simp [replayMask, ih]
    | configure pin bits order cpol => simp [replayMask, ih]
    | setClockRate hz p => simp [replayMask, ih]

/-- A construction logs the events of BUSINIT or nothing: no token, and no mask event. -/
theorem State.constructed_replayMask (s : State) (p : Straps) : replayMask false (s.constructed p).txlog = some false := by
  show replayMask false (if rangeMatches p then busInitEvents s.params p.cfgPin else []) = _
  split_ifs <;> rfl

/-- A step of an idle block other than a construction leaves mask and log, or raises the mask and logs that. -/
theorem step_log_of_idle {s t : State} (hidle : s.seq.phase = .idle) (hc : s.nextMove.isConstruct = false)
    (hs : step s = .next t) :
    (t.irqMask = s.irqMask ∧ t.txlog = s.txlog) ∨ (t.irqMask = true ∧ t.txlog = s.txlog ++ [.irqMask true]) := by
  rcases step_cases hs with ⟨p, hm, -⟩ | ⟨-, ⟨-, rfl⟩ | ⟨w, -, rfl⟩ | ⟨-, rfl⟩ | ⟨-, hb⟩⟩
  · rw [hm] at hc; cases hc
  · exact .inl ⟨rfl, rfl⟩
  · exact .inl ⟨rfl, rfl⟩
  · exact .inl ⟨rfl, rfl⟩
  · cases blockTurn_of_blockStep hb with
    | nothing same => rw [same]; exact .inl ⟨rfl, rfl⟩
    | buffer _ _ _ _ frame => rw [frame]; exact .inl ⟨rfl, rfl⟩
    | accept _ _ _ _ sends => rw [sends]; exact .inr ⟨rfl, rfl⟩
    | send sends => exact absurd hidle sends.busy

/-- Settles O34: a construction starts the log anew, an idle block logs a mask event at most, and a SEND in progress has the
mask 1. -/
theorem everyTokenStandsUnderTheMask : Obligations.EveryTokenStandsUnderTheMask := by
  unfold Obligations.EveryTokenStandsUnderTheMask
  intro s t h hlog hs
  have hinv := everyStepKeepsTheInvariant s t h hs
  cases hc : s.nextMove.isConstruct with
  | true =>
    obtain ⟨p, rfl⟩ := constructed_of_step hs hc
    exact State.constructed_replayMask _ p
  | false =>
    by_cases hidle : s.seq.phase = .idle
    · rcases step_log_of_idle hidle hc hs with ⟨hmask, hsame⟩ | ⟨hmask, hmore⟩
      · rw [hsame, hlog, hmask]
      · rw [hmore, hmask, replayMask_append, hlog]
        rfl
    · rw [h.mask_of_busy hidle] at hlog
      cases step_progress h hidle hc hs with
      | quiet busy _ log => rw [log, hlog, hinv.mask_of_busy busy]
      | emits _ busy _ _ log =>
        rw [log, replayMask_append, hlog, hinv.mask_of_busy busy]
        rfl
      | ends _ idle _ log _ =>
        rw [log, replayMask_append, hlog, (hinv.of_idle idle).2]
        rfl

/-! ### The lines of the sequencer (R100) -/

/-- The turn of a running block that selects. -/
theorem blockStep_of_select {s : State} (hrun : s.st = .run) (hp : s.seq.phase = .preSel ∨ s.seq.phase = .postSel) :
    blockStep s = .next s.selectReset := by
  have hfetch : s.fetch = .select := by
    rw [State.fetch_of_run hrun]
    rcases hp with hp | hp <;> rw [hp]
  rw [blockStep, hfetch]

/-- The turn of a running block in a reset pulse. -/
theorem blockStep_of_pulse {s : State} (hrun : s.st = .run) (hp : s.seq.phase = .preTx ∨ s.seq.phase = .postTx) :
    blockStep s = .next (s.advance s.txReset) := by
  have hfetch : s.fetch = .token .tokenRst := by
    rw [State.fetch_of_run hrun]
    rcases hp with hp | hp <;> rw [hp]
  rw [blockStep, hfetch]
  rfl

/-- The bit at the sequencer's position. -/
def State.currentBit (s : State) : Bool := (Memory.read s.pb s.seq.pix).getLsbD s.seq.bit.val

/-- The turn of a running block in `DATA_TX`. -/
theorem blockStep_of_dataTx {s : State} (hrun : s.st = .run) (hp : s.seq.phase = .dataTx) (hx : s.seq.pix < s.geom.n) :
    blockStep s = .next (s.advance (s.txBit s.currentBit)) := by
  rw [blockStep, State.fetch_of_dataTx hrun hp hx]
  simp only [exec_dataBit, onNext, State.currentBit]

section Lines
variable {s : State} (h : s.Inv)
include h

theorem State.Inv.running (hbusy : s.seq.phase ≠ .idle) : s.st = .run := (h.busy hbusy).1

theorem blockStep_preSel (hp : s.seq.phase = .preSel) :
    blockStep s = .next { s.selectProfile .reset with seq := { s.seq with phase := .preTx } } := by
  rw [blockStep_of_select (h.running (hp.trans_ne (by decide))) (.inl hp), State.selectReset, if_pos hp]

theorem blockStep_postSel (hp : s.seq.phase = .postSel) :
    blockStep s = .next { s.selectProfile .reset with seq := { s.seq with phase := .postTx } } := by
  rw [blockStep_of_select (h.running (hp.trans_ne (by decide))) (.inr hp), State.selectReset,
    if_neg (hp.trans_ne (by decide))]

theorem blockStep_preTx (hp : s.seq.phase = .preTx) (hr : s.txReady = true) :
    blockStep s = .next { s.txReset with seq := { phase := .dataTx, pix := 0, bit := 23 } } := by
  rw [blockStep_of_pulse (h.running (hp.trans_ne (by decide))) (.inl hp), State.advance_preTx hr hp]

theorem blockStep_postTx (hp : s.seq.phase = .postTx) (hr : s.txReady = true) :
    blockStep s = .next { s.txReset.setIrqMask false with seq := { s.seq with phase := .idle } } := by
  rw [blockStep_of_pulse (h.running (hp.trans_ne (by decide))) (.inr hp), State.advance_postTx hr hp]

theorem blockStep_dataTx (hp : s.seq.phase = .dataTx) (hr : s.txReady = true) :
    blockStep s = .next { s.txBit s.currentBit with seq := nextDataSeq s.geom.n s.seq } := by
  rw [blockStep_of_dataTx (h.running (hp.trans_ne (by decide))) hp (h.pix hp), State.advance_dataTx hr hp]

/-- A reset pulse without the flag spends its turn (R104, log 11): `RESET` is selected already. -/
theorem blockStep_pulse_wait (hp : s.seq.phase = .preTx ∨ s.seq.phase = .postTx) (hr : s.txReady = false) :
    blockStep s = .next s := by
  have hrun := h.running (hp.elim (·.trans_ne (by decide)) (·.trans_ne (by decide)))
  have hprofile : s.bcs.ctas = .reset := h.profile.trans (by rcases hp with hp | hp <;> rw [hp] <;> rfl)
  rw [blockStep_of_pulse hrun hp, State.advance_wait hr, State.txReset_wait hr, State.selectProfile, ← hprofile]

/-- `DATA_TX` without the flag spends its turn. -/
theorem blockStep_dataTx_wait (hp : s.seq.phase = .dataTx) (hr : s.txReady = false) : blockStep s = .next s := by
  rw [blockStep_of_dataTx (h.running (hp.trans_ne (by decide))) hp (h.pix hp), State.advance_wait hr, State.txBit,
    State.txWord_wait hr]

end Lines

/-- The position after a bit: next bit, next pixel, or the second reset pulse. -/
theorem nextDataSeq_lines {n : Nat} {q : Seq} (hq : q.phase = .dataTx) :
    (0 < q.bit.val → (nextDataSeq n q).phase = .dataTx ∧ (nextDataSeq n q).pix = q.pix ∧
      (nextDataSeq n q).bit.val = q.bit.val - 1) ∧
    (q.bit.val = 0 → q.pix + 1 < n → (nextDataSeq n q).phase = .dataTx ∧ (nextDataSeq n q).pix = q.pix + 1 ∧
      (nextDataSeq n q).bit.val = 23) ∧
    (q.bit.val = 0 → q.pix + 1 = n → (nextDataSeq n q).phase = .postSel) := by
  unfold nextDataSeq
  refine ⟨fun hbit => ?_, fun hbit hpix => ?_, fun hbit hpix => ?_⟩
  · rw [if_pos hbit]
    exact ⟨hq, rfl, rfl⟩
  · rw [if_neg (by omega), if_pos hpix]
    exact ⟨hq, rfl, rfl⟩
  · rw [if_neg (by omega), if_neg (by omega)]

/-- Settles O25: the accepting step, and the line of each phase. -/
theorem stepFollowsTheSendSequencer : Obligations.StepFollowsTheSendSequencer := by
  unfold Obligations.StepFollowsTheSendSequencer
  intro s hm h
  have turn (hbusy : s.seq.phase ≠ .idle) : step s = blockStep s.popMove := step_of_block hm (h.busy hbusy).2
  refine ⟨fun w hready hport hop => ?accept, fun hp => ?preSel, fun hp => ?postSel, fun hp hr => ?preTx,
    fun hp hr => ?dataTx, fun hp hr => ?postTx, fun hp hr => ?wait⟩
  case accept =>
    rw [stepRunsThePresentedCommand s w hm hready hport, (opField_iff_decodeCommand w).2.2.2.mp hop]
    rfl
  case preSel => exact (turn (hp.trans_ne (by decide))).trans (blockStep_preSel h.popMove hp)
  case postSel => exact (turn (hp.trans_ne (by decide))).trans (blockStep_postSel h.popMove hp)
  case preTx => exact ⟨_, rfl, (turn (hp.trans_ne (by decide))).trans (blockStep_preTx h.popMove hp hr)⟩
  case dataTx =>
    exact ⟨_, exec_dataBit _ _, nextDataSeq s.geom.n s.seq,
      (turn (hp.trans_ne (by decide))).trans (blockStep_dataTx h.popMove hp hr), nextDataSeq_lines hp⟩
  case postTx => exact ⟨_, rfl, (turn (hp.trans_ne (by decide))).trans (blockStep_postTx h.popMove hp hr)⟩
  case wait =>
    rcases hp with hp | hp | hp
    · exact (turn (hp.trans_ne (by decide))).trans (blockStep_pulse_wait h.popMove (.inl hp) hr)
    · exact (turn (hp.trans_ne (by decide))).trans (blockStep_dataTx_wait h.popMove hp hr)
    · exact (turn (hp.trans_ne (by decide))).trans (blockStep_pulse_wait h.popMove (.inr hp) hr)

/-! ### The hang (R113) -/

/-- The turn of the block in a SEND has a next state. -/
theorem blockStep_total_of_busy {s : State} (h : s.Inv) (hbusy : s.seq.phase ≠ .idle) : ∃ t, blockStep s = .next t := by
  have hrun := h.running hbusy
  cases hp : s.seq.phase with
  | idle => exact absurd hp hbusy
  | preSel => exact ⟨_, blockStep_preSel h hp⟩
  | postSel => exact ⟨_, blockStep_postSel h hp⟩
  | preTx => exact ⟨_, blockStep_of_pulse hrun (.inl hp)⟩
  | postTx => exact ⟨_, blockStep_of_pulse hrun (.inr hp)⟩
  | dataTx => exact ⟨_, blockStep_of_dataTx hrun hp (h.pix hp)⟩

/-- Every step of a SEND but a construction has a next state. -/
theorem step_total_of_busy {s : State} (h : s.Inv) (hbusy : s.seq.phase ≠ .idle) (hc : s.nextMove.isConstruct = false) :
    ∃ t, step s = .next t := by
  have hfault := (h.busy hbusy).2
  obtain ⟨transmitter, present, withdraw⟩ := otherAgentsTouchOnlyTheirOwn s (.inl hfault)
  cases hm : s.nextMove with
  | block =>
    rw [step_of_block hm hfault]
    exact blockStep_total_of_busy h.popMove hbusy
  | transmitterReady => exact ⟨_, transmitter hm⟩
  | present w => exact ⟨_, present w hm⟩
  | withdraw => exact ⟨_, withdraw hm⟩
  | construct p => rw [hm] at hc; cases hc

/-- The turn of the block leaves the schedule. -/
theorem blockStep_moves {s t : State} (h : blockStep s = .next t) : t.moves = s.moves := by
  cases blockTurn_of_blockStep h with
  | nothing same => rw [same]
  | buffer _ _ _ _ frame => rw [frame]
  | accept _ _ _ _ sends => rw [sends]; rfl
  | send sends => rw [sends.frame]

/-- A step spends its move and leaves the rest of the schedule (log 1). -/
theorem step_moves {s t : State} (h : step s = .next t) : t.moves = s.moves.tail := by
  rcases step_cases h with ⟨p, -, -, rfl⟩ | ⟨-, ⟨-, rfl⟩ | ⟨w, -, rfl⟩ | ⟨-, rfl⟩ | ⟨-, hb⟩⟩
  · rfl
  · rfl
  · rfl
  · rfl
  · exact blockStep_moves hb

/-- The next move is the block's or one of the schedule. -/
theorem State.nextMove_cases (s : State) : s.nextMove = .block ∨ s.nextMove ∈ s.moves := by
  unfold State.nextMove
  cases s.moves with
  | nil => exact .inl rfl
  | cons m ms => exact .inr List.mem_cons_self

/-- A SEND that waits for a transmitter the schedule leaves out. -/
structure Hangs (s : State) : Prop where
  inv     : s.Inv
  busy    : s.seq.phase ≠ .idle
  waiting : s.txReady = false
  starved : ∀ m ∈ s.moves, m ≠ .transmitterReady ∧ m.isConstruct = false

/-- The next move of a starved SEND is not the transmitter's, and no construction. -/
theorem Hangs.nextMove_of_others {s : State} (h : Hangs s) :
    s.nextMove ≠ .transmitterReady ∧ s.nextMove.isConstruct = false := by
  rcases s.nextMove_cases with hm | hm
  · rw [hm]; exact ⟨nofun, rfl⟩
  · exact h.starved _ hm

/-- A starved SEND has a step, which emits nothing and leaves it starved. -/
theorem Hangs.exists_step {s : State} (h : Hangs s) :
    ∃ t, step s = .next t ∧ Hangs t ∧ t.txlog = s.txlog ∧ t.pb = s.pb := by
  obtain ⟨hm, hc⟩ := h.nextMove_of_others
  obtain ⟨t, hs⟩ := step_total_of_busy h.inv h.busy hc
  have hpb := (step_frame_of_busy h.busy hc hs).1
  have hwaiting : t.txReady = false := by
    by_contra hr
    exact hm ((readyFlagIsRaisedByTheTransmitterAndClearedByTxword s t hs).1 h.waiting (by simpa using hr))
  have hstarved : ∀ m ∈ t.moves, m ≠ .transmitterReady ∧ m.isConstruct = false := by
    rw [step_moves hs]
    exact fun m hmem => h.starved m (List.mem_of_mem_tail hmem)
  cases step_progress h.inv h.busy hc hs with
  | quiet busy _ log =>
    exact ⟨t, hs, ⟨everyStepKeepsTheInvariant s t h.inv hs, busy, hwaiting, hstarved⟩, log, hpb⟩
  | emits ready _ _ _ _ => rw [h.waiting] at ready; cases ready
  | ends ready _ _ _ _ => rw [h.waiting] at ready; cases ready

/-- A starved SEND runs for any number of steps, emits nothing and stays starved. -/
theorem Hangs.exists_run (k : Nat) {s : State} (h : Hangs s) :
    ∃ t, Sys2Proof.core.run k s = .next t ∧ Hangs t ∧ t.txlog = s.txlog ∧ t.pb = s.pb := by
  induction k generalizing s with
  | zero => exact ⟨s, rfl, h, rfl, rfl⟩
  | succ k ih =>
    obtain ⟨u, hs, hu, hlog, hpb⟩ := h.exists_step
    obtain ⟨t, hrun, ht, hlog', hpb'⟩ := ih hu
    exact ⟨t, (run_succ hs).trans hrun, ht, hlog'.trans hlog, hpb'.trans hpb⟩

/-- Settles O31: a starved SEND stays one. -/
theorem sendHangsWithoutTheTransmitter : Obligations.SendHangsWithoutTheTransmitter := by
  unfold Obligations.SendHangsWithoutTheTransmitter
  intro k s h hbusy hr hmoves
  obtain ⟨t, hrun, ht, hlog, hpb⟩ := Hangs.exists_run k ⟨h, hbusy, hr, hmoves⟩
  have hready : t.cmdReady = false := Bool.eq_false_iff.mpr fun e => ht.busy (t.cmdReady_iff.mp e).2.1
  exact ⟨t, hrun, ht.busy, ht.inv.mask_of_busy ht.busy, hready, ht.waiting, hlog, hpb⟩

/-! ### The end under a transmitter that keeps up (R105, R112) -/

/-- The turns of the block until the SEND ends, when each transmitting phase finds the flag 1. -/
def State.turnsLeft (s : State) : Nat :=
  match s.seq.phase with
  | .idle => 0
  | .preSel => 24 * s.geom.n + 4
  | .preTx => 24 * s.geom.n + 3
  | .dataTx => 24 * s.geom.n + 3 - s.sentTokens
  | .postSel => 2
  | .postTx => 1

theorem State.turnsLeft_of_dataTx {s : State} (hp : s.seq.phase = .dataTx) :
    s.turnsLeft = 24 * s.geom.n + 3 - s.sentTokens := by
  rw [State.turnsLeft, hp]

/-- No turn is left in `IDLE` only. -/
theorem State.Inv.turnsLeft_pos {s : State} (h : s.Inv) (hbusy : s.seq.phase ≠ .idle) : 0 < s.turnsLeft := by
  cases hp : s.seq.phase with
  | idle => exact absurd hp hbusy
  | preSel | preTx | postSel | postTx => simp [State.turnsLeft, hp]
  | dataTx =>
    have hx := h.pix hp
    have hbit := s.seq.bit.isLt
    rw [State.turnsLeft_of_dataTx hp, State.sentTokens_of_dataTx hp]
    omega

/-- A turn of the block with the flag 1 brings a SEND one turn nearer its end. -/
theorem blockStep_turnsLeft {s : State} (h : s.Inv) (hbusy : s.seq.phase ≠ .idle) (hr : s.txReady = true) :
    ∃ t, blockStep s = .next t ∧ t.turnsLeft + 1 = s.turnsLeft := by
  cases hp : s.seq.phase with
  | idle => exact absurd hp hbusy
  | preSel => exact ⟨_, blockStep_preSel h hp, by simp [State.turnsLeft, hp]⟩
  | postSel => exact ⟨_, blockStep_postSel h hp, by simp [State.turnsLeft, hp]⟩
  | preTx =>
    refine ⟨_, blockStep_preTx h hp hr, ?_⟩
    rw [State.txReset_ready hr]
    simp [State.turnsLeft, State.sentTokens, hp]
  | postTx => exact ⟨_, blockStep_postTx h hp hr, by simp [State.turnsLeft, hp]⟩
  | dataTx =>
    have hx := h.pix hp
    have hbit := s.seq.bit.isLt
    refine ⟨_, blockStep_dataTx h hp hr, ?_⟩
    rw [State.txBit, State.txWord_ready hr, State.turnsLeft_of_dataTx hp, State.sentTokens_of_dataTx hp]
    rcases nextDataSeq_spec hp hx with ⟨hq, -, hnext⟩ | ⟨hq, hnext⟩
    · simp only [State.turnsLeft, State.sentTokens, hq, State.emit_geom]
      omega
    · simp only [State.turnsLeft, hq]
      omega

/-- The state in which the transmitter has raised its flag and `k` rounds are to come after the block's turn. -/
def State.provided (s : State) (k : Nat) : State := { s with txReady := true, moves := fairRounds k }

theorem State.Inv.provided {s : State} (h : s.Inv) (k : Nat) : (s.provided k).Inv := h.others _ _ _ _ _

/-- A round of the schedule: the transmitter raises its flag, and the block has its turn. -/
theorem run_round {s t : State} {k j : Nat} (hf : s.fault = .none) (hm : s.moves = fairRounds (k + 1))
    (hb : blockStep (s.provided k) = .next t) : Sys2Proof.core.run (2 * (j + 1)) s = Sys2Proof.core.run (2 * j) t := by
  have raise : step s = .next { s.provided k with moves := .block :: fairRounds k } := by
    have hmove : s.nextMove = .transmitterReady := by rw [State.nextMove, hm]; rfl
    rw [(otherAgentsTouchOnlyTheirOwn s (.inl hf)).1 hmove, hm]
    rfl
  have turn : step { s.provided k with moves := .block :: fairRounds k } = .next t :=
    (step_of_block (s := { s.provided k with moves := .block :: fairRounds k }) rfl hf).trans hb
  exact (run_succ raise).trans (run_succ turn)

/-- From a SEND in progress in `s`, the state `t` is the end of it: the whole frame is out, and all else is as before. -/
structure SendEnd (s t : State) (before : List Event) : Prop where
  idle  : t.seq.phase = .idle
  frame : t = { s with bcs := { s.bcs with ctas := .data }, irqMask := false, seq := t.seq, txReady := false, moves := []
                       txlog := before ++ .irqMask true :: (frameEvents s ++ [.irqMask false]) }

/-- With as many rounds as turns left, a SEND in progress ends. -/
theorem run_of_send (k : Nat) {s : State} {before : List Event} (h : s.Inv) (hbusy : s.seq.phase ≠ .idle)
    (hf : FrameSoFar s before) (hk : s.turnsLeft = k) (hm : s.moves = fairRounds k) :
    ∃ t, Sys2Proof.core.run (2 * k) s = .next t ∧ SendEnd s t before := by
  induction k generalizing s with
  | zero => exact absurd hk (h.turnsLeft_pos hbusy).ne'
  | succ k ih =>
    have hp := h.provided k
    obtain ⟨u, hb, hleft⟩ := blockStep_turnsLeft hp hbusy rfl
    have hu := blockStep_inv hp hb
    have hk' : u.turnsLeft = k := Nat.succ.inj (hleft.trans hk)
    have hframe := blockStep_frame_of_busy (s := s.provided k) hbusy hb
    have hsame : frameEvents u = frameEvents s := by rw [hframe]; rfl
    rw [run_round (h.busy hbusy).2 hm hb]
    rcases (blockStep_progress hp hbusy hb).frameSoFar hf hsame with ⟨hbusy', hf'⟩ | ⟨hidle, hlog, hflag⟩
    · obtain ⟨t, hrun, hend⟩ := ih hu hbusy' hf' hk' (blockStep_moves hb)
      refine ⟨t, hrun, hend.idle, hend.frame.trans ?_⟩
      rw [hsame, hframe]
      rfl
    · obtain ⟨hprofile, hmask⟩ := hu.of_idle hidle
      have hzero : k = 0 := by rw [← hk', State.turnsLeft, hidle]
      subst hzero
      refine ⟨u, rfl, hidle, hframe.trans ?_⟩
      rw [hprofile, hmask, hlog, hflag]
      rfl

/-- The turn of a ready block with a SEND on the port. -/
theorem blockStep_of_send {s : State} {w : CmdWord} (hready : s.cmdReady = true) (hport : s.port = some w)
    (hop : opField w = 3) :
    blockStep s = .next { s.clearPort.setIrqMask true with seq := { s.seq with phase := .preSel } } := by
  rw [blockStep, State.fetch_of_ready hready hport, (opField_iff_decodeCommand w).2.2.2.mp hop]
  rfl

/-- Settles O30: the round that accepts the SEND, and the rest by `run_of_send`. -/
theorem sendEndsWhenTheTransmitterKeepsUp : Obligations.SendEndsWhenTheTransmitterKeepsUp := by
  unfold Obligations.SendEndsWhenTheTransmitterKeepsUp
  intro s w h hready hport hop hm
  obtain ⟨-, hidle, hfault⟩ := s.cmdReady_iff.mp hready
  obtain ⟨hprofile, hmask⟩ := h.of_idle hidle
  have accept := blockStep_of_send (s := s.provided (24 * s.geom.n + 4)) hready hport hop
  have hinv := blockStep_inv (h.provided _) accept
  obtain ⟨t, hrun, hend⟩ := run_of_send (before := s.txlog) (24 * s.geom.n + 4) hinv nofun rfl rfl rfl
  refine ⟨t, (run_round hfault hm accept).trans hrun, hend.idle, hend.frame.trans ?_⟩
  have hbefore : { s with bcs := { s.bcs with ctas := .data }, irqMask := false } = s := by rw [← hprofile, ← hmask]
  conv_rhs => rw [← hbefore]
  rfl

/-! ### Other data (R115): each operation beside another buffer and table -/

/-- The state with another buffer and another table. -/
def withData (pb : Memory) (cct : CctTable) (s : State) : State :=
  { s with pb := pb, params := { s.params with cct := cct } }

/-- Two states alike in all that R115 speaks of: everything but the data, the values in the fault record and the tokens. -/
structure SameControl (s t : State) : Prop where
  seq     : t.seq = s.seq
  mask    : t.irqMask = s.irqMask
  bcs     : t.bcs = s.bcs
  flag    : t.txReady = s.txReady
  status  : t.st = s.st
  geom    : t.geom = s.geom
  port    : t.port = s.port
  moves   : t.moves = s.moves
  fault   : t.fault.code = s.fault.code
  log     : t.txlog.length = s.txlog.length

theorem SameControl.of_setIrqMask {s t : State} (h : SameControl s t) (on : Bool) :
    SameControl (s.setIrqMask on) (t.setIrqMask on) :=
  ⟨h.seq, rfl, h.bcs, h.flag, h.status, h.geom, h.port, h.moves, h.fault, by simp [h.log]⟩

theorem SameControl.of_seq {s t : State} (h : SameControl s t) (q : Seq) :
    SameControl { s with seq := q } { t with seq := q } :=
  ⟨rfl, h.mask, h.bcs, h.flag, h.status, h.geom, h.port, h.moves, h.fault, h.log⟩

section Data
variable (pb : Memory) (cct : CctTable) (s : State)

theorem sameControl_withData : SameControl s (withData pb cct s) := ⟨rfl, rfl, rfl, rfl, rfl, rfl, rfl, rfl, rfl, rfl⟩

/-- SET's outcome on the fault record goes by the index alone (R93). -/
theorem State.setLinear_fault_code (i : Int) (rgb : Rgb) :
    (s.setLinear i rgb).fault.code = if i = s.geom.n then 2 else s.fault.code := by
  rcases s.setLinear_slots i rgb with ⟨hout, e⟩ | ⟨-, hn, -, e⟩ | ⟨hat, e⟩ <;> rw [e]
  · rw [if_neg (by omega)]
  · rw [if_neg hn.ne]
  · rw [if_pos hat]
    rfl

theorem setLinear_withData (i : Int) (rgb : Rgb) :
    SameControl (s.setLinear i rgb) ((withData pb cct s).setLinear i rgb) := by
  have hcode : ((withData pb cct s).setLinear i rgb).fault.code = (s.setLinear i rgb).fault.code := by
    rw [State.setLinear_fault_code, State.setLinear_fault_code]
    rfl
  rw [s.setLinear_frame, (withData pb cct s).setLinear_frame]
  exact ⟨rfl, rfl, rfl, rfl, rfl, rfl, rfl, rfl, hcode, rfl⟩

/-- A command does the same to the control beside other data. -/
theorem exec_command_withData (w : CmdWord) :
    ∃ t t', exec (decodeCommand w) s = .next t ∧ exec (decodeCommand w) (withData pb cct s) = .next t' ∧
      SameControl t t' := by
  have same := sameControl_withData pb cct s
  rcases decodeCommand_cases w with ⟨-, hd⟩ | ⟨-, hd⟩ | ⟨-, hd⟩ | ⟨-, hd⟩ <;> rw [hd]
  · exact ⟨_, _, rfl, rfl, rfl, rfl, rfl, rfl, rfl, rfl, rfl, rfl, rfl, rfl⟩
  · exact ⟨_, _, rfl, rfl, setLinear_withData pb cct s _ _⟩
  · refine ⟨_, _, rfl, rfl, ?_⟩
    have hgeom : (withData pb cct s).geom = s.geom := rfl
    rw [hgeom]
    split_ifs
    · exact setLinear_withData pb cct s _ _
    · exact same
  · exact ⟨_, _, rfl, rfl, (same.of_setIrqMask true).of_seq _⟩

/-- A bit takes its turn whatever it is. -/
theorem txBit_withData (d d' : Bool) : SameControl (s.txBit d) ((withData pb cct s).txBit d') := by
  have same := sameControl_withData pb cct s
  cases hr : s.txReady with
  | false =>
    rw [State.txBit, State.txBit, State.txWord_wait hr, State.txWord_wait (s := withData pb cct s) hr]
    exact same
  | true =>
    rw [State.txBit, State.txBit, State.txWord_ready hr, State.txWord_ready (s := withData pb cct s) hr]
    exact ⟨rfl, rfl, rfl, rfl, rfl, rfl, rfl, rfl, rfl, by simp [withData]⟩

theorem txReset_withData : SameControl s.txReset (withData pb cct s).txReset := by
  cases hr : s.txReady with
  | false =>
    rw [State.txReset_wait hr, State.txReset_wait (s := withData pb cct s) hr]
    exact ⟨rfl, rfl, rfl, rfl, rfl, rfl, rfl, rfl, rfl, rfl⟩
  | true =>
    rw [State.txReset_ready hr, State.txReset_ready (s := withData pb cct s) hr]
    exact ⟨rfl, rfl, rfl, rfl, rfl, rfl, rfl, rfl, rfl, by simp [withData]⟩

/-- What follows a token goes by the position alone. -/
theorem advance_withData {after after' : State} (h : SameControl after after') :
    SameControl (s.advance after) ((withData pb cct s).advance after') := by
  cases hr : s.txReady with
  | false => rwa [State.advance_wait hr, State.advance_wait (s := withData pb cct s) hr]
  | true =>
    cases hp : s.seq.phase with
    | idle | preSel | postSel => simpa [State.advance, withData, hr, hp] using h
    | preTx =>
      rw [State.advance_preTx hr hp, State.advance_preTx (s := withData pb cct s) hr hp]
      exact h.of_seq _
    | dataTx =>
      rw [State.advance_dataTx hr hp, State.advance_dataTx (s := withData pb cct s) hr hp]
      exact h.of_seq _
    | postTx =>
      rw [State.advance_postTx hr hp, State.advance_postTx (s := withData pb cct s) hr hp]
      exact (h.of_setIrqMask false).of_seq _

end Data

/-- A turn that fetches nothing fetches nothing beside other data: only `DATA_TX` reads the buffer, and it fetches a token. -/
theorem fetch_nothing_withData {pb : Memory} {cct : CctTable} {s : State} (h : s.fetch = .nothing) :
    (withData pb cct s).fetch = .nothing := by
  cases hst : s.st with
  | halt => exact if_pos hst
  | run =>
    rw [State.fetch_of_run hst] at h
    rw [State.fetch_of_run (s := withData pb cct s) hst, ← h]
    cases hp : s.seq.phase with
    | dataTx =>
      cases hv : s.pbRead s.seq.pix with
      | none => simp [hp, State.fetchBit, hv] at h
      | some v => simp [hp, State.fetchBit, hv] at h; split_ifs at h
    | idle =>
      rw [show (withData pb cct s).seq.phase = .idle from hp]
      rfl
    | preSel | preTx | postSel | postTx => simp [withData, hp]

/-- A slot that reads is one of the buffer (R13). -/
theorem State.lt_of_pbRead {s : State} {a : Nat} {v : Entry} (h : s.pbRead a = some v) : a < s.geom.n := by
  by_contra ha
  rw [State.pbRead, if_neg ha] at h
  cases h

/-- The turn of the block does the same to the control beside other data. -/
theorem blockStep_withData {s t : State} (pb : Memory) (cct : CctTable) (hb : blockStep s = .next t) :
    ∃ t', blockStep (withData pb cct s) = .next t' ∧ SameControl t t' := by
  have same := sameControl_withData pb cct s
  rcases blockStep_cases hb with
    ⟨hf, rfl⟩ | ⟨hready, w, hport, he⟩ | ⟨hrun, hp, rfl⟩ | ⟨hrun, hp, rfl⟩ | ⟨hrun, hp, v, hv, rfl⟩
  · exact ⟨_, by rw [blockStep, fetch_nothing_withData hf], same⟩
  · obtain ⟨u, u', hu, hu', hsame⟩ := exec_command_withData pb cct s.clearPort w
    obtain rfl : u = t := Host.Outcome.next.inj (hu.symm.trans he)
    refine ⟨u', ?_, hsame⟩
    rw [blockStep, State.fetch_of_ready (s := withData pb cct s) hready hport]
    exact hu'
  · exact ⟨_, blockStep_of_select hrun hp, rfl, rfl, rfl, rfl, rfl, rfl, rfl, rfl, rfl, rfl⟩
  · exact ⟨_, blockStep_of_pulse hrun hp, advance_withData pb cct s (txReset_withData pb cct s)⟩
  · exact ⟨_, blockStep_of_dataTx (s := withData pb cct s) hrun hp (State.lt_of_pbRead (s := s) hv),
      advance_withData pb cct s (txBit_withData pb cct s _ _)⟩

/-- Every step does the same to the control beside other data. -/
theorem step_withData {s t : State} (pb : Memory) (cct : CctTable) (hs : step s = .next t) :
    ∃ t', step (withData pb cct s) = .next t' ∧ SameControl t t' := by
  rcases step_cases hs with ⟨p, hm, hg, rfl⟩ | ⟨hf, ⟨hm, rfl⟩ | ⟨w, hm, rfl⟩ | ⟨hm, rfl⟩ | ⟨hm, hb⟩⟩
  · refine ⟨_, step_of_construct (s := withData pb cct s) hm hg, rfl, rfl, rfl, rfl, rfl, rfl, rfl, rfl, rfl, rfl⟩
  · exact ⟨_, (otherAgentsTouchOnlyTheirOwn (withData pb cct s) hf).1 hm, rfl, rfl, rfl, rfl, rfl, rfl, rfl, rfl, rfl, rfl⟩
  · exact ⟨_, (otherAgentsTouchOnlyTheirOwn (withData pb cct s) hf).2.1 w hm,
      rfl, rfl, rfl, rfl, rfl, rfl, rfl, rfl, rfl, rfl⟩
  · exact ⟨_, (otherAgentsTouchOnlyTheirOwn (withData pb cct s) hf).2.2 hm,
      rfl, rfl, rfl, rfl, rfl, rfl, rfl, rfl, rfl, rfl⟩
  · obtain ⟨t', hb', hsame⟩ := blockStep_withData pb cct hb
    refine ⟨t', ?_, hsame⟩
    have hmove : (withData pb cct s).nextMove = .block := hm
    rw [step, hmove]
    exact (unlessOobWrite_of_stands (s := (withData pb cct s).popMove) hf _).trans hb'

/-- Settles O43: every step does the same to the control beside other data. -/
theorem dataNeverChangesTheSequence : Obligations.DataNeverChangesTheSequence := by
  unfold Obligations.DataNeverChangesTheSequence
  intro s t pb cct hs
  obtain ⟨t', hs', seq, mask, bcs, flag, status, geom, port, moves, fault, log⟩ := step_withData pb cct hs
  exact ⟨t', hs', seq, mask, bcs, flag, status, geom, port, moves, fault, log⟩

end Sys2Proof.Machine
end

section
/-!
PROOFS of the statements on 60_exceptions.md. A halted block and a recorded `OobWrite` decide each move before it is looked at; the
ways the fault record can change are said once for the turn of the block, and a step adds who moves.
-/

namespace Sys2Proof.Machine

/-! ### After `OobWrite` (R13, R122, R123) -/

/-- With `OobWrite` recorded a guarded outcome is the stop with that fault. -/
theorem unlessOobWrite_of_oobWrite {s : State} {a : Nat} {v : Entry} (h : s.fault = .oobWrite a v)
    (o : Host.Outcome State Fault Refusal) : unlessOobWrite s o = .fault (.oobWrite a v) := by
  rw [unlessOobWrite, h]

/-- Settles O10: every move but a construction is guarded. -/
theorem noStepAfterOobWrite : Obligations.NoStepAfterOobWrite := by
  unfold Obligations.NoStepAfterOobWrite
  intro s a v hf hc
  have hf' : s.popMove.fault = .oobWrite a v := hf
  rw [step]
  cases hm : s.nextMove with
  | block | transmitterReady | present w | withdraw => exact unlessOobWrite_of_oobWrite hf' _
  | construct p => rw [hm] at hc; cases hc

/-! ### The halted block (R26, R120) -/

/-- A halted block is not ready. -/
theorem State.cmdReady_of_halt {s : State} (h : s.st = .halt) : s.cmdReady = false := by
  simp [State.cmdReady, h]

/-- The turn of a halted block changes nothing (log 11, 20). -/
theorem blockStep_of_halt {s : State} (h : s.st = .halt) : blockStep s = .next s := by
  have hfetch : s.fetch = .nothing := if_pos h
  rw [blockStep, hfetch]

/-- A step of a halted block other than a construction writes the transmitter's flag, the port and the schedule at most. -/
theorem step_of_halted {s : State} (hst : s.st = .halt) (hf : s.fault = .cfgMismatch)
    (hc : s.nextMove.isConstruct = false) :
    ∃ flag port, step s = .next { s.popMove with txReady := flag, port := port } := by
  obtain ⟨transmitter, present, withdraw⟩ := otherAgentsTouchOnlyTheirOwn s (.inr hf)
  cases hm : s.nextMove with
  | block =>
    refine ⟨s.txReady, s.port, ?_⟩
    rw [step, hm]
    exact (unlessOobWrite_of_stands (s := s.popMove) (.inr hf) _).trans (blockStep_of_halt hst)
  | transmitterReady => exact ⟨_, _, transmitter hm⟩
  | present w => exact ⟨_, _, present w hm⟩
  | withdraw => exact ⟨_, _, withdraw hm⟩
  | construct p => rw [hm] at hc; cases hc

/-- Settles O9: the frame of `step_of_halted`. -/
theorem haltedBlockStaysHalted : Obligations.HaltedBlockStaysHalted := by
  unfold Obligations.HaltedBlockStaysHalted
  intro s hst hf hc
  obtain ⟨flag, port, hs⟩ := step_of_halted hst hf hc
  exact ⟨_, hs, hst, hf, State.cmdReady_of_halt hst, rfl, rfl, rfl, rfl, rfl, rfl⟩

/-! ### The writes of the fault record (R120, R122, R123) -/

/-- The commands R122 names: SET with index `N`, SETXY with `(W, H - 1)` or `(0, H)`. -/
def AddressesN (g : Geom) (w : CmdWord) : Prop :=
  (opField w = 1 ∧ (aField w).toInt = g.n) ∨
  (opField w = 2 ∧ (((aField w).toInt = g.w ∧ (bField w).toInt = g.h - 1) ∨
    ((aField w).toInt = 0 ∧ (bField w).toInt = g.h)))

/-- The one way a turn of the block writes `FAULT`: it takes a command that addresses `N`, and records its slot and its colour. -/
def RaisesOobWrite (s t : State) : Prop :=
  s.cmdReady = true ∧ ∃ w, s.port = some w ∧ AddressesN s.geom w ∧
    t.fault = .oobWrite (xlate s.geom s.geom.n) (correct s.params.cct (rgbField w))

/-- Coordinates that pass SETXY's check and reach the index `N` are those of column `W` in the last row or of column 0 below it. -/
theorem coords_of_index_n {g : Geom} (hw : 0 < g.w) {x y : Int} (hc : coordsAccepted g x y = true)
    (hn : ((lin2d g x.toNat y.toNat : Nat) : Int) = g.n) :
    (x = g.w ∧ y = g.h - 1) ∨ (x = 0 ∧ y = g.h) := by
  obtain ⟨hx, hxw, hy, hyh⟩ := (coordsAccepted_iff g x y).mp hc
  rw [lin2d_toNat g hx hy] at hn
  have hedge : x = g.w ∨ y = g.h := by
    by_contra! hne
    exact (index_lt_n (lt_of_le_of_ne hxw hne.1) (lt_of_le_of_ne hyh hne.2)).ne hn
  rw [g.n_eq_height_mul_width] at hn
  rcases hedge with rfl | rfl
  · have hrows : (y + 1) * g.w = g.h * g.w := by linarith
    have hrow := mul_right_cancel₀ (by omega : (g.w : Int) ≠ 0) hrows
    exact .inl ⟨rfl, by omega⟩
  · exact .inr ⟨by linarith, rfl⟩

/-- A SET that a ready block takes from the port leaves `FAULT`, or its index is `N` and it raises. -/
theorem setLinear_fault {s : State} {w : CmdWord} {i : Int} (hready : s.cmdReady = true) (hport : s.port = some w)
    (hcause : i = s.geom.n → AddressesN s.geom w) :
    (s.clearPort.setLinear i (rgbField w)).fault = s.fault ∨
    RaisesOobWrite s (s.clearPort.setLinear i (rgbField w)) := by
  rcases s.clearPort.setLinear_slots i (rgbField w) with ⟨-, e⟩ | ⟨-, -, -, e⟩ | ⟨hat, e⟩ <;> rw [e]
  · exact .inl rfl
  · exact .inl rfl
  · exact .inr ⟨hready, w, hport, hcause hat, rfl⟩

/-- A turn of the block leaves `FAULT` or raises `OobWrite`. -/
theorem blockStep_fault {s t : State} (hw : 0 < s.geom.w) (hb : blockStep s = .next t) :
    t.fault = s.fault ∨ RaisesOobWrite s t := by
  rcases blockStep_spec hb with
    ⟨-, rfl⟩ | ⟨hready, w, hport, hc⟩ | ⟨-, -, rfl⟩ | ⟨-, -, -, rfl⟩ | ⟨-, -, -, -, rfl⟩ | ⟨-, -, -, rfl⟩ |
    ⟨-, -, -, rfl⟩ | ⟨-, -, -, -, rfl⟩
  case inr.inl =>
    rcases hc with ⟨-, rfl⟩ | ⟨hop, rfl⟩ | ⟨-, rfl, -⟩ | ⟨hop, hacc, rfl⟩ | ⟨-, rfl⟩
    · exact .inl rfl
    · exact setLinear_fault hready hport fun hn => .inl ⟨hop, hn⟩
    · exact .inl rfl
    · exact setLinear_fault hready hport fun hn => .inr ⟨hop, coords_of_index_n hw hacc hn⟩
    · exact .inl rfl
  all_goals exact .inl rfl

/-- A step other than a construction leaves `FAULT`, or is a turn of the block that raises `OobWrite`. -/
theorem step_fault {s t : State} (hw : 0 < s.geom.w) (hc : s.nextMove.isConstruct = false) (hs : step s = .next t) :
    t.fault = s.fault ∨ (s.nextMove = .block ∧ RaisesOobWrite s t) := by
  rcases step_cases hs with ⟨p, hm, -⟩ | ⟨-, ⟨-, rfl⟩ | ⟨w, -, rfl⟩ | ⟨-, rfl⟩ | ⟨hm, hb⟩⟩
  · rw [hm] at hc; cases hc
  · exact .inl rfl
  · exact .inl rfl
  · exact .inl rfl
  · exact (blockStep_fault (s := s.popMove) hw hb).imp_right fun hraise => ⟨hm, hraise⟩

/-- The fault record a construction leaves (R120). -/
theorem State.constructed_fault (s : State) (p : Straps) :
    (s.constructed p).fault = if p.cctRange = 0x100 then .none else .cfgMismatch := by
  split_ifs with hr
  · exact (s.constructed_of_match hr).2.1
  · exact (s.constructed_of_mismatch hr).2

/-- Settles O11: a construction by its check, any other step by `step_fault`; a step that raises starts from a ready block, whose
`FAULT` is none. -/
theorem faultIsWrittenOnceAndOnlyConstructionClearsIt :
    Obligations.FaultIsWrittenOnceAndOnlyConstructionClearsIt := by
  unfold Obligations.FaultIsWrittenOnceAndOnlyConstructionClearsIt
  intro s t h hs
  have hw : 0 < s.geom.w := ((geometryOk_iff _ _).mp h.geom).1
  refine ⟨fun p hm => ?_, fun hc hset => ?_, fun hc hne => ?_⟩
  · obtain ⟨-, rfl⟩ := construct_next (show construct p s.popMove = .next t by rw [step, hm] at hs; exact hs)
    exact State.constructed_fault _ p
  · rcases step_fault hw hc hs with same | ⟨-, hready, -⟩
    · exact same
    · exact absurd (s.cmdReady_iff.mp hready).2.2 hset
  · rcases step_fault hw hc hs with same | ⟨hm, hready, w, hport, hcause, hrecord⟩
    · exact absurd same hne
    · exact ⟨(s.cmdReady_iff.mp hready).2.2, hm, hready, by rw [hport]; exact hrecord, w, hport, hcause⟩

end Sys2Proof.Machine
end

section
/-!
PROOF of the statement on the clamp of 70_reset_and_hazards.md. The bound the model checks in naturals is the bound of R141 on the
signed ports, because the clamp is the signed maximum.
-/

namespace Sys2Proof.Machine

/-- The check of a construction's geometry is the bound of R7 on the clamped ports: the clamp already makes each dimension at least 1. -/
theorem geometryOk_geomOf_iff (p : Straps) :
    geometryOk (geomOf p).w (geomOf p).h = true ↔
      (max 1 p.cfgWidth.toInt + 1) * (max 1 p.cfgHeight.toInt + 1) ≤ 2 ^ 31 - 1 := by
  have hbound : (Config.geometryBound : Int) = 2 ^ 31 - 1 := by decide
  calc geometryOk (geomOf p).w (geomOf p).h = true
      ↔ (clampDim p.cfgWidth + 1) * (clampDim p.cfgHeight + 1) ≤ Config.geometryBound := by
        rw [geometryOk_iff]
        exact ⟨fun h => h.2.2, fun h => ⟨one_le_clampDim _, one_le_clampDim _, h⟩⟩
    _ ↔ (max 1 p.cfgWidth.toInt + 1) * (max 1 p.cfgHeight.toInt + 1) ≤ 2 ^ 31 - 1 := by
        rw [← clampDim_eq, ← clampDim_eq, ← hbound]
        norm_cast

/-- The step of a construction beyond the bound (log 9). -/
theorem step_of_construct_refused {s : State} {p : Straps} (hm : s.nextMove = .construct p)
    (hg : ¬ geometryOk (geomOf p).w (geomOf p).h = true) : step s = .refused .geometryOutOfBound := by
  rw [step, hm]
  exact if_neg hg

/-- Settles O8: the construction's check is the bound on the clamped ports, and each side of it has its step. -/
theorem constructionClampsOrRefusesTheGeometry : Obligations.ConstructionClampsOrRefusesTheGeometry := by
  unfold Obligations.ConstructionClampsOrRefusesTheGeometry
  intro s p hm
  refine ⟨fun hle => ?_, fun hlt => ?_⟩
  · have hg := (geometryOk_geomOf_iff p).mpr hle
    exact ⟨_, step_of_construct hm hg, clampDim_eq _, clampDim_eq _⟩
  · exact step_of_construct_refused hm (mt (geometryOk_geomOf_iff p).mp hlt.not_ge)

end Sys2Proof.Machine
end
